-- ==== Sys2Proof/Word.lean ====
section
/-! DEFINITION. The two bit-vector widths of UVPC's data (spec/00_scope.md R13, R14): bytes and 16-bit words. -/

namespace Sys2Proof

/-- An octet of a byte stream (R13). -/
abbrev Byte := BitVec 8

/-- A 16-bit pattern (R13, R15). -/
abbrev Word := BitVec 16

end Sys2Proof
end

