-- ==== Sys2Proof/Syntax.lean ====
section
/-! DEFINITION. The instructions of UVPC: one constructor per row of spec/opcode_table.json, with typed operands
(spec/30_encoding.md R92 to R96, R100, R102, R104, R125). -/

namespace Sys2Proof

/-- The user-facing configuration record (30_encoding.md R125); `Rat` is the number domain `Q` (00_scope.md R16). -/
structure AcousticConfig where
  f0 : Rat
  prf : Rat
  nEch : Int
  rEm : Rat
  rVol1 : Rat
  rDvol : Rat
  nVol : Int
  gainA0 : Rat
  gainA1 : Rat
  gainAuto : Bool
  staticEchoFilter : Bool
  phaseCoding : Bool
  burstMode : Bool
  nAvg : Int
  vMin : Rat
  deriving DecidableEq, Repr, Inhabited

/-- The optional blind limits of CFG.FROMUSER (44_config.md R254): a pair in dB and dB per metre. -/
structure BlindLimits where
  a0Max : Rat
  a1Max : Rat
  deriving DecidableEq, Repr

/-- One constructor per row of the table. `tmo` is the optional bound in seconds (41_transport.md R166); slots are
plain indices (an index past the last slot is presentable and refused, 44_config.md R241). -/
inductive Instr where
  -- unit U0 (40_crc.md)
  | crcCompute (d : List Byte)
  | crcInit
  | crcUpdate (b : Byte)
  | crcRead
  | crcCheck (f : List Byte)
  -- unit U1 (41_transport.md)
  | rdW (addr count : Word) (tmo : Option Rat)
  | wrW (addr : Word) (v : List Word) (tmo : Option Rat)
  | rdBuf (addr : Word) (total : BitVec 17) (tmo : Option Rat)
  | wrBuf (addr : Word) (v : List Word) (tmo : Option Rat)
  | csrRd (r : Byte)
  | csrWr (r : Byte) (value : Rat)
  | linkOpen
  | linkClose
  -- unit U2 (42_casts.md)
  | castS16 (x : Rat)
  | castU16 (x : Rat)
  -- unit U3 (43_gain.md); `n` of G.TABLE is 0 to 32767
  | gS2C (a1 r : Rat)
  | gC2S (code r : Rat)
  | gI2C (a0 : Rat)
  | gC2I (code : Rat)
  | gTable (n : BitVec 15) (ci cs bi bs : Rat)
  -- unit U4 (44_config.md)
  | cfgFromUser (s : Nat) (a : AcousticConfig) (c : Rat) (blind : Option BlindLimits)
  | cfgFromRegs (s : Nat) (l : List Word)
  | cfgToRegs (s : Nat)
  | cfgToUser (s : Nat) (c : Rat)
  | cfgBlockDur (s : Nat)
  | cfgEq (s t : Nat)
  -- unit U5 (45_timestamp.md)
  | tsEnc (sec ms : Int)
  | tsDec (w0 w1 w2 : Word)
  -- unit U6 (46_profile.md)
  | profDec (pb : List Byte) (s : Nat)
  -- frames (30_encoding.md R92 to R96); a request frame's slave byte, byte count and CRC follow from its fields
  | rdreq (addr count : Word)
  | rdrsp (slave : Byte) (payload : List Byte) (crc : Word)
  | wrreq (addr : Word) (v : List Word)
  | wrack (slave : Byte) (addr count crc : Word)
  | wrerr (slave errFunc : Byte) (payload : List Byte)
  -- pseudo-operations (30_encoding.md R104)
  | wrCfg (s : Nat) (a : Word)
  | rdCfg (s : Nat) (a : Word)
  | rdProf (s : Nat) (a : Word)
  deriving DecidableEq, Repr

/-- Where a packet of bytes is presented. The function byte does not tell a request from a response, the direction
does, and the request just sent fixes which response format applies (30_encoding.md R98). -/
inductive Channel where
  /-- a command of the host: an OP byte and its operand record (R100) -/
  | command
  /-- a pseudo-operation of the host's assembler (R104) -/
  | pseudo
  /-- a request frame, UVPC to device (R92, R94) -/
  | request
  /-- bytes from the device in answer to a read request (R93) -/
  | readReply
  /-- bytes from the device in answer to a write request (R95, R96) -/
  | writeReply
  deriving DecidableEq, Repr

/-- An instruction as bytes on a channel. -/
structure Packet where
  chan : Channel
  bytes : List Byte
  deriving DecidableEq, Repr

end Sys2Proof
end

