-- ==== Sys2Proof/Config.lean ====
section
/-! DEFINITION. The constants of spec/00_scope.md R11, the parameters of R12 with their defaults, and the free values:
what the spec leaves to the environment or leaves unspecified, as constants without a body. -/

namespace Sys2Proof

/-! ### Constants (00_scope.md R11) -/

/-- `FC_READ`. -/
def fcRead : Byte := 0x03
/-- `FC_WRITE`. -/
def fcWrite : Byte := 0x10
/-- `MAX_RD`. -/
def maxRd : Nat := 125
/-- `MAX_WR`. -/
def maxWr : Nat := 123
/-- `CRC_INIT`. -/
def crcInitValue : Word := 0xFFFF
/-- `CRC_POLY`. -/
def crcPoly : Word := 0xA001
/-- `CFG_WORDS`. -/
def cfgWords : Nat := 17
/-- Words before the cells of a profile block: `TS_WORDS + HDR_WORDS` (30_encoding.md R120). -/
def profileHeadWords : Nat := 11
/-- The capacity of `RXACC` in bytes (10_state.md R28). -/
def rxaccBytes : Nat := 258
/-- `CODE_MIN_APPLIED`. -/
def codeMinApplied : Rat := 50
/-- `CODE_MAX_APPLIED`. -/
def codeMaxApplied : Rat := 1241
/-- `CODE_MIN_USER`. -/
def codeMinUser : Rat := -4096
/-- `CODE_MAX_USER`. -/
def codeMaxUser : Rat := 4095
/-- `SLOPE_PRESCALE`. -/
def slopePrescale : Rat := 16
/-- `SETTLE_K`, 0.75e-6 s. -/
def settleK : Rat := 3 / 4000000
/-- `VEL_SCALE`. -/
def velScale : Rat := 65535
/-- `AMP_SCALE`. -/
def ampScale : Rat := 4096
/-- `SNR_DIV`. -/
def snrDiv : Rat := 10

/-! ### Parameters (00_scope.md R12) -/

/-- `BAUD_SET` (R11); no rule depends on the rate (20_memory.md R61). -/
inductive Baud where
  | b57600 | b115200 | b230400 | b750000
  deriving DecidableEq, Repr

/-- `ROUND_TIE`. -/
inductive RoundTie where
  | even | away
  deriving DecidableEq, Repr

/-- `NUM`, the number domain of physical values. -/
inductive NumDomain where
  | exact | binary64
  deriving DecidableEq, Repr

/-- `BURST_TEST` (30_encoding.md R113). -/
inductive BurstTest where
  | bit0 | bit1 | both | any
  deriving DecidableEq, Repr

/-- The parameters a model takes as arguments, fixed for the life of an instance (10_state.md R22). `pow10_20` and
`sqrt` are kept symbolic and so are no field; `N_SLOTS` is the length of the register file `State.hc`. -/
structure Config where
  slaveAddr : Byte
  chainDb : Rat
  codeDbRatio : Rat
  vref : Rat
  epoch : Int
  fSys : Rat
  baud : Baud
  roundTie : RoundTie
  num : NumDomain
  blindCa0 : Int
  blindCa1 : Int
  burstTest : BurstTest
  checkSlave : Bool
  tmoDefault : Rat
  actionAddr : Word
  slotBase : Word
  slotStride : Word
  profileAddr : Word
  soundSpeedAddr : Word
  identAddr : Word
  deriving DecidableEq, Repr

/-- The defaults of R12, which every test vector of 95_test_vectors.md uses. DESIGN CHOICE (entry 9), unsafe: R12
leaves `EPOCH`, `BAUD`, `TMO_DEFAULT` and the six device addresses open; no rule of the block reads their value. -/
def Config.default : Config where
  slaveAddr := 0x04
  chainDb := 1172 / 100
  codeDbRatio := 4029 / 100000
  vref := 125 / 100
  epoch := 0
  fSys := 36000000
  baud := .b57600
  roundTie := .even
  num := .exact
  blindCa0 := 1241
  blindCa1 := 0
  burstTest := .bit0
  checkSlave := false
  tmoDefault := 0
  actionAddr := 0
  slotBase := 0
  slotStride := 17
  profileAddr := 0
  soundSpeedAddr := 0
  identAddr := 0

/-- `N_SLOTS`' default (R12). -/
def nSlotsDefault : Nat := 2

/-- What the spec requires of the parameters: the gain ratio and the system frequency are positive (43_gain.md R220,
44_config.md R241), slots do not overlap (20_memory.md R76). Another `Config` is no instance (entry 22). -/
abbrev Config.Valid (c : Config) : Prop := 0 < c.codeDbRatio ∧ 0 < c.fSys ∧ 17 ≤ c.slotStride.toNat

/-! ### Answers of the environment (entry 3) -/

/-- What `Tx` answers (20_memory.md R62); on `ioError n` the first `n` bytes of the frame had been accepted. -/
inductive TxAnswer where
  | ok
  | ioError (accepted : Nat)
  deriving DecidableEq, Repr, Inhabited

/-- What `StreamRead` answers (20_memory.md R63). `data` holds the bytes the device has put on the line: a read of
fewer bytes takes that many of them and the rest wait (41_transport.md R168); an empty `data` is a `none`. -/
inductive RxAnswer where
  | data (bytes : List Byte)
  | none
  | closed
  deriving DecidableEq, Repr, Inhabited

/-- One answer of the receive stream and the timer's draw after it (41_transport.md R165). -/
structure RxStep where
  answer : RxAnswer
  expired : Bool
  deriving DecidableEq, Repr, Inhabited

/-- What LINK.OPEN is answered (41_transport.md R196): whether the stream could be opened, and how many waiting
receive answers the host's serial driver discards (70_reset_and_hazards.md R353; entry 19). -/
structure OpenAnswer where
  ok : Bool
  dropped : Nat
  deriving DecidableEq, Repr, Inhabited

/-! ### Free values (entries 3, 11, 12, 14, 27) -/

/-- Free: what `Tx` answers when the given answers have run out; applied to `State.draws`. -/
opaque Config.freeTx : Nat → TxAnswer

/-- Free: the answers of the receive stream after the given ones, any finite list; the second argument is the time
bound of the read (41_transport.md R166). Finite because the timer is fair (R165). -/
opaque Config.freeRx : Nat → Rat → List RxStep

/-- Free: what LINK.OPEN is answered when the given answers have run out. -/
opaque Config.freeOpen : Nat → OpenAnswer

/-- Free: the contents of `RDB` after a faulting read, unspecified by 41_transport.md R177, R193. -/
opaque Config.freeRdb : Nat → List Word

/-- Free: `UCR` after a faulting CFG.TOUSER, unspecified by 44_config.md R258. -/
opaque Config.freeUcr : Nat → AcousticConfig

/-- Free: the word total RD.PROF presents when `11 + 4·n_vol` is negative (30_encoding.md R104). -/
opaque Config.freeTotal : Nat → BitVec 17

/-- Free: what one arithmetic result becomes under `NUM = binary64`, for which the spec gives no rounding
(00_scope.md R16; 93_implementation_defined.md rows 22 and 24); used inside the tolerance of `inBinary64`. -/
opaque Config.round64 : Rat → Rat

/-- Free: a quotient under `NUM = binary64` whose divisor is 0, applied to the dividend (entry 27). -/
opaque Config.freeQuotient : Rat → Rat

end Sys2Proof
end

