-- ==== Sys2Proof/Machine/Bytes.lean ====
section
/-! DEFINITION. Octets, byte order and the CRC function: the helpers that frames, the decoder and the CRC unit share
(spec/00_scope.md R14, spec/20_memory.md R64 to R66, spec/40_crc.md R141 to R144). -/

namespace Sys2Proof.Machine

/-- `hi8(w) = w[15:8]` (00_scope.md R14). -/
def hi8 (w : Word) : Byte := w.extractLsb' 8 8

/-- `lo8(w) = w[7:0]` (00_scope.md R14). -/
def lo8 (w : Word) : Byte := w.extractLsb' 0 8

/-- The word with the given octets: `(hi << 8) | lo`. -/
def ofOctets (hi lo : Byte) : Word := hi ++ lo

/-- `be16(w) = [hi8(w), lo8(w)]`: every 16-bit field of a frame but the CRC (20_memory.md R64). -/
def be16 (w : Word) : List Byte := [hi8 w, lo8 w]

/-- `le16(w) = [lo8(w), hi8(w)]`: the order of the two CRC octets (20_memory.md R65). -/
def le16 (w : Word) : List Byte := [lo8 w, hi8 w]

/-- `swap(c)` of 40_crc.md R144. -/
def swap16 (w : Word) : Word := ofOctets (lo8 w) (hi8 w)

/-- The big-endian bytes of a list of words, first word first. -/
def wordsToBytes : List Word → List Byte
  | [] => []
  | w :: ws => hi8 w :: lo8 w :: wordsToBytes ws

/-- The words of a big-endian byte string; a last odd byte is no word (41_transport.md R176, 46_profile.md R292). -/
def bytesToWords : List Byte → List Word
  | hi :: lo :: bs => ofOctets hi lo :: bytesToWords bs
  | _ => []

/-- One shift step of the CRC register (40_crc.md R141). -/
def crcShift (c : Word) : Word := if c.getLsbD 0 then (c >>> 1) ^^^ crcPoly else c >>> 1

/-- `step(c, b)`: the byte enters the low octet, then eight shift steps (40_crc.md R142). -/
def crcStep (c : Word) (b : Byte) : Word :=
  crcShift (crcShift (crcShift (crcShift (crcShift (crcShift (crcShift (crcShift (c ^^^ b.setWidth 16))))))))

/-- The register after the bytes of `d`, from `c`. -/
def crcFold (c : Word) (d : List Byte) : Word := d.foldl crcStep c

/-- `crc16(d)` (40_crc.md R141): the unswapped register value, no final XOR. -/
def crc16 (d : List Byte) : Word := crcFold crcInitValue d

/-- `T[i] = step(0x0000, i)`, an entry of the table form (40_crc.md R143). -/
def crcTable (i : Byte) : Word := crcStep 0 i

/-- One byte step in the table form (40_crc.md R143). -/
def crcTableStep (c : Word) (b : Byte) : Word := (c >>> 8) ^^^ crcTable (lo8 c ^^^ b)

/-- The CRC compare of two received octets, low octet first (40_crc.md R149, 41_transport.md R173). -/
def crcMatches (c : Word) (lo hi : Byte) : Bool := lo == lo8 c && hi == hi8 c

/-- Sealing a request (41_transport.md R164): the body and its CRC, low octet first. -/
def sealFrame (q : List Byte) : List Byte := q ++ le16 (crc16 q)

/-- The body of a read request (30_encoding.md R92). -/
def readBody (slave : Byte) (addr count : Word) : List Byte := [slave, fcRead] ++ be16 addr ++ be16 count

/-- The body of a write request (30_encoding.md R94); the byte count is `2·n` in one byte. -/
def writeBody (slave : Byte) (addr : Word) (v : List Word) : List Byte :=
  [slave, fcWrite] ++ be16 addr ++ be16 (BitVec.ofNat 16 v.length) ++ [BitVec.ofNat 8 (2 * v.length)] ++ wordsToBytes v

/-- The read request frame `RDREQ` (30_encoding.md R92). -/
def readRequest (slave : Byte) (addr count : Word) : List Byte := sealFrame (readBody slave addr count)

/-- The write request frame `WRREQ` (30_encoding.md R94). -/
def writeRequest (slave : Byte) (addr : Word) (v : List Word) : List Byte := sealFrame (writeBody slave addr v)

/-- The bytes of a read response `RDRSP` with the CRC it carries (30_encoding.md R93). -/
def readResponse (slave : Byte) (payload : List Byte) (crc : Word) : List Byte :=
  [slave, fcRead, BitVec.ofNat 8 payload.length] ++ payload ++ le16 crc

/-- The bytes of a write success response `WRACK` with the CRC it carries (30_encoding.md R95). -/
def writeAck (slave : Byte) (addr count crc : Word) : List Byte :=
  [slave, fcWrite] ++ be16 addr ++ be16 count ++ le16 crc

/-- The bytes of a write failure response `WRERR`, which has no CRC (30_encoding.md R96). -/
def writeError (slave errFunc : Byte) (payload : List Byte) : List Byte :=
  [slave, errFunc, BitVec.ofNat 8 payload.length] ++ payload

end Sys2Proof.Machine
end

