-- ==== Sys2Proof/Machine/State.lean ====
section
/-! DEFINITION. The state of UVPC as plain data (spec/10_state.md R20 to R36), the kinds and causes of its faults
(spec/60_exceptions.md R312), the reasons a step of the model can stop, and the state after reset (R45). -/

namespace Sys2Proof.Machine

/-! ### Fault kinds and causes of the spec (60_exceptions.md R310, R312): raising one is a next state -/

/-- The four kinds. -/
inductive Kind where
  | transportFault | protocolTimeout | formatError | configurationFault
  deriving DecidableEq, Repr

/-- The 22 causes of R312, in the order of its table. -/
inductive Cause where
  | linkNotOpen | writeFail | streamClosed | openFail
  | noResponse | shortResponse | crcMismatch | wrongFunction | badByteCount | writeNak | wrongSlave
  | cfgLength | profileSize | shortFrame
  | badOp | countRange | addrRange | hcNotLoaded | divZero | tsRange | badSlot | badCsr
  deriving DecidableEq, Repr

/-! ### Why a step of the model stops -/

/-- Stops of the machine. -/
inductive Fault where
  /-- Raised by `step` alone: `BUSY = 1` and no transaction is open, so the engine has no move and takes no command
  (93_implementation_defined.md section 1 row 10; entry 6). Safe: no run from reset reaches it. -/
  | engineStuck
  deriving DecidableEq, Repr

/-- Packets that are no instruction. -/
inductive Refusal where
  /-- Raised by `exec`'s arms for an instruction that has no meaning yet; no arm uses it. Safe. -/
  | notModelled (mnemonic : String)
  /-- Raised by `step` for a command or pseudo-operation whose operand record has the wrong shape, which the typed
  interface cannot express (30_encoding.md R101; 93 section 1 row 12). Safe. -/
  | malformedPacket
  /-- Raised by `step` for a request packet that is no frame UVPC sends (30_encoding.md R99). Safe. -/
  | notARequest
  deriving DecidableEq, Repr

/-! ### Pieces of state -/

/-- The 17 words of a HardwareConfig, named as in 30_encoding.md R110. -/
structure HwConfig where
  divF0 : Word
  nTir : Word
  cPrf : Word
  nEm : Word
  nVol : Word
  cVol1 : Word
  cDvol : Word
  gainCa0 : Word
  gainCa1 : Word
  tr : Word
  phiMin : Word
  method : Word
  reserved1 : Word
  reserved2 : Word
  nAvg : Word
  blindCa0 : Word
  blindCa1 : Word
  deriving DecidableEq, Repr

/-- One configuration register file with its valid bit: `HC[s]` and `HCV[s]` (R24, R25). -/
structure Slot where
  valid : Bool
  regs : HwConfig
  deriving DecidableEq, Repr

/-- The states of the operation sequencer (R27). -/
inductive Seq where
  | idle | tx | rx1 | rx2 | rx3 | check | nextSeg
  deriving DecidableEq, Repr

/-- What the outstanding transaction awaits (R19, R72): a read response of `count` words, or a write response. -/
inductive Awaited where
  | read (count : Word)
  | write
  deriving DecidableEq, Repr

/-- The transaction in progress between its request and its response: what is awaited and the bound of its reads. -/
structure Pending where
  awaited : Awaited
  bound : Rat
  deriving DecidableEq, Repr

/-- An indexed store of `w`-bit values: (index, value) pairs, indices strictly rising, no value 0. -/
abbrev Cells (w : Nat) := List (Nat × BitVec w)

/-- A byte store; its entries are `Host.Cell`. -/
abbrev Memory := Cells 8

/-- A gain factor, kept symbolic: it stands for `pow10_20(db)` (R31, 00_scope.md R12; entry 13). -/
structure Gain where
  db : Rat
  deriving DecidableEq, Repr

/-- A decoded amplitude, kept symbolic: it stands for `scale / sqrt(navg) / pow10_20(gain.db)` (46_profile.md R299). -/
structure Amplitude where
  scale : Rat
  navg : Int
  gain : Gain
  deriving DecidableEq, Repr

/-- The header scalars `PR.hdr[0 .. 7]` (R33). -/
structure ProfileHeader where
  pitch : Int
  roll : Int
  temperature : Int
  soundSpeed : Int
  gainIntercept : Int
  gainSlope : Int
  noise0 : Int
  noise1 : Int
  deriving DecidableEq, Repr

/-- The six array entries of one cell (R33). -/
structure ProfileCell where
  vel : Rat
  std : Rat
  amp : Amplitude
  snr : Rat
  wrap : Bool
  sat : Bool
  deriving DecidableEq, Repr

/-- The ProfileRecord (R33); `PR.n` is the number of cells. -/
structure ProfileRecord where
  sec : Int
  ms : Int
  hdr : ProfileHeader
  cells : List ProfileCell
  deriving DecidableEq, Repr

/-- What the environment will answer, in order: to `Tx`, to `StreamRead` with the timer, to LINK.OPEN. The receive
answers are also the backlog of the receive stream (R36 b). -/
structure Env where
  tx : List TxAnswer
  rx : List RxStep
  opens : List OpenAnswer
  deriving DecidableEq, Repr

/-- What is presented to the block: a packet, or the reset event (70_reset_and_hazards.md R340). -/
inductive Event where
  | packet (p : Packet)
  | reset
  deriving DecidableEq, Repr

/-! ### The state -/

/-- All state of the block, the two streams, and the model's own fields `pend`, `inbox`, `env`, `draws`. -/
structure State where
  /-- the parameters, fixed for the life of the instance (R22); `SLAVE` and `FSYS` are read from here -/
  cfg : Config
  /-- `CRCR` (R23) -/
  crcr : Word
  /-- `HC`, `HCV` (R24, R25); its length is `N_SLOTS` -/
  hc : List Slot
  /-- `TMO`, in seconds (R26) -/
  tmo : Rat
  /-- `LINK`, true for OPEN (R26) -/
  link : Bool
  /-- `BUSY` (R26) -/
  busy : Bool
  /-- `STATUS` (R26) -/
  status : BitVec 8
  /-- `FSTICKY` (R26) -/
  fsticky : BitVec 4
  /-- `INFO0` (R26) -/
  info0 : BitVec 32
  /-- `INFO1` (R26) -/
  info1 : BitVec 32
  /-- `ERRFUNC` (R26) -/
  errfunc : Byte
  /-- `ERRLEN` (R26) -/
  errlen : Byte
  /-- `ECHOADDR` (R26) -/
  echoaddr : Word
  /-- `ECHOCNT` (R26) -/
  echocnt : Word
  /-- `RDCNT` (R26) -/
  rdcnt : BitVec 17
  /-- `SEGCNT` (R26) -/
  segcnt : Word
  /-- `seq` (R27) -/
  seq : Seq
  /-- `CUR` (R27) -/
  cur : BitVec 17
  /-- `REM` (R27) -/
  rem : BitVec 17
  /-- `RXACC` (R28; entry 17) -/
  rxacc : List Byte
  /-- `ERRBUF` (R29) -/
  errbuf : Memory
  /-- `RDB` (R30) -/
  rdb : Cells 16
  /-- `GT` (R31); `GTN` is its length -/
  gt : List Gain
  /-- `UCR` (R32) -/
  ucr : AcousticConfig
  /-- `BDUR`, in seconds (R32) -/
  bdur : Rat
  /-- `RL[0 .. 16]` (R32) -/
  rl : List Word
  /-- `EQF` (R32) -/
  eqf : Bool
  /-- `TSW[0]` (R32) -/
  tsw0 : Word
  /-- `TSW[1]` (R32) -/
  tsw1 : Word
  /-- `TSW[2]` (R32) -/
  tsw2 : Word
  /-- `TSSEC` (R32) -/
  tssec : Int
  /-- `TSMS` (R32) -/
  tsms : Int
  /-- `SCR` (R32) -/
  scr : Rat
  /-- `PR` (R33) -/
  pr : ProfileRecord
  /-- `PRV` (R33) -/
  prv : Bool
  /-- the model's: the transaction in progress -/
  pend : Option Pending
  /-- the model's: what the host and the device have yet to present -/
  inbox : List Event
  /-- the transmit stream: every byte handed to the device so far (R35 b; entry 4) -/
  sent : List Byte
  /-- the model's: the answers of the environment -/
  env : Env
  /-- the model's: the counter free values are applied to -/
  draws : Nat
  deriving DecidableEq, Repr

/-! ### Reset -/

/-- What an unloaded slot holds: 17 words 0xFFFF. DESIGN CHOICE (entry 8), unsafe: R45 leaves `HC` unspecified at
reset and R25 forbids to give an unloaded slot the value zero; `HCV[s] = 0` keeps every operation from reading it. -/
def HwConfig.unloaded : HwConfig :=
  ⟨0xFFFF, 0xFFFF, 0xFFFF, 0xFFFF, 0xFFFF, 0xFFFF, 0xFFFF, 0xFFFF, 0xFFFF, 0xFFFF, 0xFFFF, 0xFFFF, 0xFFFF, 0xFFFF,
    0xFFFF, 0xFFFF, 0xFFFF⟩

/-- The AcousticConfig of zeros that `UCR` holds at reset. DESIGN CHOICE (entry 8), unsafe:
R45 leaves it unspecified. -/
def zeroAcoustic : AcousticConfig := ⟨0, 0, 0, 0, 0, 0, 0, 0, 0, false, false, false, false, 0, 0⟩

/-- The ProfileRecord that `PR` holds at reset. DESIGN CHOICE (entry 8), unsafe:
R45 leaves it unspecified; `PRV = 0`. -/
def zeroProfile : ProfileRecord := ⟨0, 0, ⟨0, 0, 0, 0, 0, 0, 0, 0⟩, []⟩

/-- The machine right after reset (R45, R340), with the default parameters and nothing presented to it. The values
R45 calls unspecified are the model's, DESIGN CHOICE (entry 8), unsafe. -/
def State.reset : State where
  cfg := Config.default
  crcr := crcInitValue
  hc := List.replicate nSlotsDefault ⟨false, HwConfig.unloaded⟩
  tmo := Config.default.tmoDefault
  link := false
  busy := false
  status := 0
  fsticky := 0
  info0 := 0
  info1 := 0
  errfunc := 0
  errlen := 0
  echoaddr := 0
  echocnt := 0
  rdcnt := 0
  segcnt := 0
  seq := .idle
  cur := 0
  rem := 0
  rxacc := []
  errbuf := []
  rdb := []
  gt := []
  ucr := zeroAcoustic
  bdur := 0
  rl := List.replicate cfgWords 0
  eqf := false
  tsw0 := 0
  tsw1 := 0
  tsw2 := 0
  tssec := 0
  tsms := 0
  scr := 0
  pr := zeroProfile
  prv := false
  pend := none
  inbox := []
  sent := []
  env := ⟨[], [], []⟩
  draws := 0

end Sys2Proof.Machine
end

