-- ==== Sys2Proof/Machine/Flags.lean ====
section
/-! DEFINITION. The flags and codes of UVPC: STATUS and FSTICKY (spec/60_exceptions.md R312, R313), the mode word's
four booleans (spec/30_encoding.md R113) and the sign flags of a profile cell (spec/46_profile.md R297). -/

namespace Sys2Proof.Machine

/-- The number of a kind (R312). -/
def Kind.number : Kind → Nat
  | .transportFault => 1
  | .protocolTimeout => 2
  | .formatError => 3
  | .configurationFault => 4

/-- The kind a cause belongs to (R312). -/
def Cause.kind : Cause → Kind
  | .linkNotOpen | .writeFail | .streamClosed | .openFail => .transportFault
  | .noResponse | .shortResponse | .crcMismatch | .wrongFunction | .badByteCount | .writeNak | .wrongSlave =>
      .protocolTimeout
  | .cfgLength | .profileSize | .shortFrame => .formatError
  | .badOp | .countRange | .addrRange | .hcNotLoaded | .divZero | .tsRange | .badSlot | .badCsr => .configurationFault

/-- The number of a cause within its kind (R312). -/
def Cause.number : Cause → Nat
  | .linkNotOpen | .noResponse | .cfgLength | .badOp => 1
  | .writeFail | .shortResponse | .profileSize | .countRange => 2
  | .streamClosed | .crcMismatch | .shortFrame | .addrRange => 3
  | .openFail | .wrongFunction | .hcNotLoaded => 4
  | .badByteCount | .divZero => 5
  | .writeNak | .tsRange => 6
  | .wrongSlave | .badSlot => 7
  | .badCsr => 8

/-- `STATUS = kind << 5 | cause` (R311, R312). -/
def Cause.status (c : Cause) : BitVec 8 := BitVec.ofNat 8 (c.kind.number * 32 + c.number)

/-- The bit `FSTICKY[kind - 1]` (R311, R313). -/
def Kind.stickyBit (k : Kind) : BitVec 4 := 1#4 <<< (k.number - 1)

/-- Bit `n` of the mode word as a number. -/
def modeBit (b : Bool) (n : Nat) : Word := if b then BitVec.ofNat 16 (2 ^ n) else 0

/-- `method = 3·burst + 4·phase + 256·sef + 512·auto` (30_encoding.md R113, 44_config.md R252): the "+512" is bit 9,
counted once (90_conflicts.md C1). -/
def encodeMode (burst phase sef auto : Bool) : Word :=
  modeBit burst 0 ||| modeBit burst 1 ||| modeBit phase 2 ||| modeBit sef 8 ||| modeBit auto 9

/-- `burst_mode` of a mode word under the parameter `BURST_TEST` (R113). -/
def burstMode (t : BurstTest) (m : Word) : Bool :=
  match t with
  | .bit0 => m.getLsbD 0
  | .bit1 => m.getLsbD 1
  | .both => m.getLsbD 0 && m.getLsbD 1
  | .any => m.getLsbD 0 || m.getLsbD 1

/-- `phase_coding` of a mode word (R113). -/
def phaseCoding (m : Word) : Bool := m.getLsbD 2

/-- `static_echo_filter` of a mode word (R113). -/
def staticEchoFilter (m : Word) : Bool := m.getLsbD 8

/-- `gain_auto` of a mode word (R113). -/
def gainAuto (m : Word) : Bool := m.getLsbD 9

/-- The flag a raw std or amplitude word carries: its sign (46_profile.md R297). -/
def signFlag (raw : Int) : Bool := decide (raw < 0)

end Sys2Proof.Machine
end

