-- ==== Sys2Proof/Machine/Operands.lean ====
section
/-! DEFINITION. Readings of words, the number domain and its rounding, and the operand forms the units share
(spec/00_scope.md R15, R16; spec/42_casts.md R211, R212; spec/30_encoding.md R110). -/

namespace Sys2Proof.Machine

/-! ### Words and integers (00_scope.md R15) -/

/-- `s(w)`, the signed reading. -/
def sRead (w : Word) : Int := w.toInt

/-- `u(w)`, the unsigned reading. -/
def uRead (w : Word) : Int := w.toNat

/-- `pat(n) = n mod 65536`. -/
def pat (n : Int) : Word := BitVec.ofInt 16 n

/-- `clamp(x, lo, hi)`. -/
def clamp {α : Type} [LT α] [DecidableLT α] (x lo hi : α) : α := if x < lo then lo else if hi < x then hi else x

/-! ### Arithmetic of the number domain (00_scope.md R16)

With `NUM = exact` the operations are those of the rationals; with `NUM = binary64` each result is the exact one up to
the tolerance of the number format (entry 12). -/

/-- The largest distance of a binary64 number from the exact result it stands for, in any direction of rounding: one
part in 2^52, or the smallest subnormal number. PRESUMED (entry 12): the precision of the format of that name. -/
def binary64Slack (x : Rat) : Rat := |x| / 2 ^ 52 + 1 / 2 ^ 1074

/-- Numbers that need no rounding: a numerator of 53 bits over a power of two. PRESUMED (entry 12). -/
abbrev FitsBinary64 (x : Rat) : Prop := x.den ∣ 2 ^ 1074 ∧ x.num.natAbs ≤ 2 ^ 53

/-- A result under `NUM = binary64`: itself where it needs no rounding, as the zeros of 46_profile.md R300; else a free
number within the tolerance, which 43_gain.md R229 rests on. Past 2^1023, where the format may overflow, it is any
number. -/
def inBinary64 (x : Rat) : Rat :=
  if FitsBinary64 x then x
  else if |x| ≤ 2 ^ 1023 then clamp (Config.round64 x) (x - binary64Slack x) (x + binary64Slack x)
  else Config.round64 x

/-- One arithmetic result in the number domain of the instance. Only results are rounded: under `NUM = binary64` the
operands, the parameters and the decimal literals enter as the exact rationals they are (DESIGN CHOICE, entry 28). -/
def inDomain (cfg : Config) (x : Rat) : Rat :=
  match cfg.num with
  | .exact => x
  | .binary64 => inBinary64 x

/-- Sum. -/
def qAdd (cfg : Config) (x y : Rat) : Rat := inDomain cfg (x + y)
/-- Difference. -/
def qSub (cfg : Config) (x y : Rat) : Rat := inDomain cfg (x - y)
/-- Product. -/
def qMul (cfg : Config) (x y : Rat) : Rat := inDomain cfg (x * y)
/-- Quotient. Every rule tests the divisors it names; under `NUM = binary64` a divisor computed from them (`2 · f0`,
`16 · r_dvol`) may still have been rounded to 0, a quotient the spec does not state: it is free (DESIGN CHOICE, entry
27). -/
def qDiv (cfg : Config) (x y : Rat) : Rat :=
  match cfg.num with
  | .exact => x / y
  | .binary64 => if y = 0 then Config.freeQuotient x else inBinary64 (x / y)

/-- `rni(x)`: the nearest integer, a tie going to the even integer or away from zero as `ROUND_TIE` says. -/
def rni (t : RoundTie) (x : Rat) : Int :=
  let f := x.floor
  let d := x - f
  if d < 1 / 2 then f
  else if 1 / 2 < d then f + 1
  else match t with
    | .even => if f % 2 = 0 then f else f + 1
    | .away => if 0 ≤ x then f + 1 else f

/-- `round1(x) = rni(10·x) / 10`. -/
def round1 (cfg : Config) (x : Rat) : Rat := qDiv cfg (rni cfg.roundTie (qMul cfg 10 x)) 10

/-- `castS16(x)` (42_casts.md R211): round, then clamp. -/
def castS16 (cfg : Config) (x : Rat) : Int := clamp (rni cfg.roundTie x) (-32768) 32767

/-- `castU16(x)` (42_casts.md R212). -/
def castU16 (cfg : Config) (x : Rat) : Int := clamp (rni cfg.roundTie x) 0 65535

/-! ### The register layout: the one encode/decode pair of 30_encoding.md R110, R111 -/

/-- The 17 words in register order. -/
def HwConfig.toRegs (h : HwConfig) : List Word :=
  [h.divF0, h.nTir, h.cPrf, h.nEm, h.nVol, h.cVol1, h.cDvol, h.gainCa0, h.gainCa1, h.tr, h.phiMin, h.method,
    h.reserved1, h.reserved2, h.nAvg, h.blindCa0, h.blindCa1]

/-- The record of a list of exactly 17 words, none of another length (44_config.md R256). -/
def HwConfig.ofRegs : List Word → Option HwConfig
  | [w0, w1, w2, w3, w4, w5, w6, w7, w8, w9, w10, w11, w12, w13, w14, w15, w16] =>
      some ⟨w0, w1, w2, w3, w4, w5, w6, w7, w8, w9, w10, w11, w12, w13, w14, w15, w16⟩
  | _ => none

/-! ### Views of state the spec names as registers -/

/-- `N_SLOTS`, the number of configuration register files (00_scope.md R12). -/
def State.nSlots (s : State) : Nat := s.hc.length

/-- `GTN` (10_state.md R31). -/
def State.gtn (s : State) : Nat := s.gt.length

/-- `PR.n` (10_state.md R33). -/
def State.prn (s : State) : Nat := s.pr.cells.length

/-- A Boolean register as a number. -/
def bitValue (b : Bool) : Rat := if b then 1 else 0

/-- The value of control and status register `r` (10_state.md R26); none for a number outside the table. -/
def csrValue (r : Byte) (s : State) : Option Rat :=
  match r.toNat with
  | 0x00 => some s.cfg.slaveAddr.toNat
  | 0x01 => some maxRd
  | 0x02 => some maxWr
  | 0x03 => some s.tmo
  | 0x04 => some (bitValue s.link)
  | 0x05 => some (bitValue s.busy)
  | 0x06 => some s.status.toNat
  | 0x07 => some s.fsticky.toNat
  | 0x08 => some s.info0.toNat
  | 0x09 => some s.info1.toNat
  | 0x0A => some s.errfunc.toNat
  | 0x0B => some s.errlen.toNat
  | 0x0C => some s.echoaddr.toNat
  | 0x0D => some s.echocnt.toNat
  | 0x0E => some s.rdcnt.toNat
  | 0x0F => some s.segcnt.toNat
  | 0x10 => some s.cfg.fSys
  | _ => none

end Sys2Proof.Machine
end

