-- ==== Sys2Proof/Machine/Ops.lean ====
section
/-! DEFINITION. The shared operations: the indexed stores, the engine's operations with the one fault entry of
spec/60_exceptions.md R311, the environment's draws, the transmit and receive primitives (spec/20_memory.md R62, R63,
spec/41_transport.md R164, R165) and access to the configuration register files. -/

namespace Sys2Proof.Machine

/-! ### Indexed stores -/

/-- The value at index `i`; an unlisted index reads as 0. DESIGN CHOICE (entry 8), unsafe: 10_state.md R45 gives
`RDB` and `ERRBUF` no contents at reset. -/
def cellsRead {w : Nat} : Cells w → Nat → BitVec w
  | [], _ => 0#w
  | (j, v) :: c, i => if i = j then v else cellsRead c i

/-- Writing one index; a written 0 is no entry, so that equal contents are equal lists. -/
def cellsWrite {w : Nat} : Cells w → Nat → BitVec w → Cells w
  | [], i, v => if v = 0#w then [] else [(i, v)]
  | (j, u) :: c, i, v =>
    if i < j then (if v = 0#w then (j, u) :: c else (i, v) :: (j, u) :: c)
    else if i = j then (if v = 0#w then c else (i, v) :: c)
    else (j, u) :: cellsWrite c i v

/-- Writing consecutive indices from `i`. -/
def cellsWriteAll {w : Nat} (c : Cells w) (i : Nat) : List (BitVec w) → Cells w
  | [] => c
  | v :: vs => cellsWriteAll (cellsWrite c i v) (i + 1) vs

/-- `n` consecutive values from index `i`. -/
def cellsReadAll {w : Nat} (c : Cells w) (i : Nat) : Nat → List (BitVec w)
  | 0 => []
  | n + 1 => cellsRead c i :: cellsReadAll c (i + 1) n

/-- Every index of the store is at least `lo`, indices rise strictly, no value is 0. -/
def cellsWfFrom {w : Nat} (lo : Nat) : Cells w → Bool
  | [] => true
  | (i, v) :: c => decide (lo ≤ i) && v != 0#w && cellsWfFrom (i + 1) c

/-- The canonical form of a store. -/
def cellsWf {w : Nat} (c : Cells w) : Bool := cellsWfFrom 0 c

/-- The canonical form of a byte store. -/
abbrev Memory.wf (m : Memory) : Bool := cellsWf m

/-! ### Operations of the engine

An operation either ends normally or is ended by a raise; both leave a state (60_exceptions.md R321). -/

/-- An operation of the engine; `.error` means that a raise ended it. -/
abbrev Engine (α : Type) := EStateM Unit State α

/-- FAULT ENTRY, the one operation that raises (60_exceptions.md R311): `STATUS`, the two information words reduced
mod 2^32, the sticky bit of the kind, `BUSY <- 0`, `seq <- IDLE`; everything else keeps its value. No transaction is
open afterwards. There is no return operation: the host presents the next command (R323). -/
def State.raise (s : State) (c : Cause) (i0 i1 : Int) : State :=
  { s with
    status := c.status
    info0 := BitVec.ofInt 32 i0
    info1 := BitVec.ofInt 32 i1
    fsticky := s.fsticky ||| c.kind.stickyBit
    busy := false
    seq := .idle
    pend := none }

/-- `raise K(cause, i0, i1)`: nothing after it executes. -/
def raise {α : Type} (c : Cause) (i0 i1 : Int) : Engine α := fun s => .error () (s.raise c i0 i1)

/-- Raise unless the condition holds. -/
def require (p : Prop) [Decidable p] (c : Cause) (i0 i1 : Int) : Engine Unit :=
  if p then pure () else raise c i0 i1

/-- Writes of named registers. -/
def update (f : State → State) : Engine Unit := fun s => .ok () (f s)

/-- Reads of named registers. -/
def inspect {α : Type} (f : State → α) : Engine α := fun s => .ok (f s) s

/-- The end of a successful operation: `STATUS <- 0` (R311). -/
def succeed : Engine Unit := update fun s => { s with status := 0 }

/-- An operation with what a fault of it leaves (60_exceptions.md R322). -/
def onFault {α : Type} (op : Engine α) (f : State → State) : Engine α := fun s =>
  match op s with
  | .ok a s' => .ok a s'
  | .error e s' => .error e (f s')

/-- The state an operation leaves, whether it ended normally or by a raise. -/
def runOp {α : Type} (op : Engine α) (s : State) : State :=
  match op s with
  | .ok _ s' => s'
  | .error _ s' => s'

/-! ### Configuration register files (10_state.md R24, R25) -/

/-- The slot test of every operation with a slot operand (44_config.md R241, 60_exceptions.md R314). -/
def checkSlot (i : Nat) : Engine Unit := do
  let n ← inspect State.nSlots
  require (i < n) .badSlot i 0

/-- `HCV[i]`. -/
def State.slotValid (s : State) (i : Nat) : Bool :=
  match s.hc[i]? with
  | some sl => sl.valid
  | none => false

/-- `HC[i]`; read only behind `checkLoaded`. -/
def State.slotRegs (s : State) (i : Nat) : HwConfig :=
  match s.hc[i]? with
  | some sl => sl.regs
  | none => HwConfig.unloaded

/-- The valid test of every reader of `HC[i]` (60_exceptions.md R316). -/
def checkLoaded (i : Nat) : Engine Unit := do
  let v ← inspect (State.slotValid · i)
  require (v = true) .hcNotLoaded i 0

/-- `HC[i] <- h` and `HCV[i] <- 1`, all 17 words together (10_state.md R25). -/
def State.loadSlot (s : State) (i : Nat) (h : HwConfig) : State := { s with hc := s.hc.set i ⟨true, h⟩ }

/-! ### The environment's draws -/

/-- The answer to one `Tx`: the next given answer, a free value when none is left. -/
def State.txAnswer (s : State) : TxAnswer :=
  match s.env.tx with
  | a :: _ => a
  | [] => Config.freeTx s.draws

/-- The state after an answer to `Tx` has been drawn. -/
def State.txDrawn (s : State) : State :=
  match s.env.tx with
  | _ :: as => { s with env := { s.env with tx := as } }
  | [] => { s with draws := s.draws + 1 }

/-- The answer to one LINK.OPEN. -/
def State.openAnswer (s : State) : OpenAnswer :=
  match s.env.opens with
  | a :: _ => a
  | [] => Config.freeOpen s.draws

/-- The state after LINK.OPEN has been answered; the receive answers the host's driver discards are gone
(70_reset_and_hazards.md R353). -/
def State.openDrawn (s : State) : State :=
  let rx := s.env.rx.drop s.openAnswer.dropped
  match s.env.opens with
  | _ :: as => { s with env := { s.env with opens := as, rx := rx } }
  | [] => { s with env := { s.env with rx := rx }, draws := s.draws + 1 }

/-! ### Transmit (20_memory.md R62, 41_transport.md R164) -/

/-- The bytes of a frame that were accepted under an answer. -/
def acceptedBytes (frame : List Byte) : TxAnswer → List Byte
  | .ok => frame
  | .ioError n => frame.take n

/-- `Tx(frame)`. -/
def transmit (frame : List Byte) : Engine Unit := do
  let a ← inspect State.txAnswer
  update fun s => { s.txDrawn with sent := s.sent ++ acceptedBytes frame a }
  require (a = .ok) .writeFail 0 0

/-- `RXACC <- [] ; seq <- TX ; Tx(q ++ le16(crc16(q)))` and then the wait for the response, `seq <- RX1`. -/
def sendRequest (q : List Byte) (p : Pending) : Engine Unit := do
  update fun s => { s with rxacc := [], seq := .tx }
  transmit (sealFrame q)
  update fun s => { s with seq := .rx1, pend := some p }

/-! ### Receive (20_memory.md R63, 41_transport.md R165) -/

/-- How the loop of `Rx` over a list of answers ends, with the bytes accumulated and the answers left. -/
inductive RxEnd where
  | full (acc : List Byte) (rest : List RxStep)
  | timeout (acc : List Byte) (rest : List RxStep)
  | closed (acc : List Byte) (rest : List RxStep)
  /-- the answers ran out while the read was waiting -/
  | waiting (acc : List Byte)
  deriving DecidableEq, Repr

/-- The loop of `Rx(n, tmo)` (R165): the count test comes before the time test; bytes past the count asked for stay
at the head of the stream (R168). -/
def rxLoop (n : Nat) : List Byte → List RxStep → RxEnd
  | acc, [] => .waiting acc
  | acc, e :: es =>
    match e.answer with
    | .closed => .closed acc es
    | .none => if e.expired then .timeout acc es else rxLoop n acc es
    | .data bs =>
      let got := acc ++ bs.take (n - acc.length)
      let left := bs.drop (n - acc.length)
      if got.length = n then .full got (if left = [] then es else ⟨.data left, e.expired⟩ :: es)
      else if e.expired then .timeout got es
      else rxLoop n got es

/-- The end of `Rx(n, bound)` at this state: over the given answers; when they run out, over a free finite list; when
that runs out too the bound has passed, the timer being fair (R165). -/
def State.rxEnd (s : State) (n : Nat) (bound : Rat) : RxEnd :=
  match rxLoop n [] s.env.rx with
  | .waiting acc =>
    match rxLoop n acc (Config.freeRx s.draws bound) with
    | .waiting acc' => .timeout acc' []
    | r => r
  | r => r

/-- Whether `Rx` needed free answers. -/
def State.rxFree (s : State) (n : Nat) : Bool :=
  match rxLoop n [] s.env.rx with
  | .waiting _ => true
  | _ => false

/-- `RXACC` with bytes appended. It holds 258 bytes at most (10_state.md R28); of a longer response it keeps the first
ones, while `Rx` hands all of them on (DESIGN CHOICE, entry 17). -/
def accumulate (rxacc acc : List Byte) : List Byte := (rxacc ++ acc).take rxaccBytes

/-- The stream after `Rx` has consumed bytes: `RXACC` has accumulated them, they are gone from the stream. -/
def State.rxDone (s : State) (free : Bool) (acc : List Byte) (rest : List RxStep) : State :=
  { s with
    rxacc := accumulate s.rxacc acc
    env := { s.env with rx := rest }
    draws := if free then s.draws + 1 else s.draws }

/-- `Rx(n, bound)`: `n` bytes, or `STREAM_CLOSED`, `NO_RESPONSE`, `SHORT_RESPONSE` with the bytes asked and got. -/
def receive (n : Nat) (bound : Rat) : Engine (List Byte) :=
  if n = 0 then pure []
  else fun s =>
    let free := s.rxFree n
    match s.rxEnd n bound with
    | .full acc rest => .ok acc (s.rxDone free acc rest)
    | .closed acc rest => .error () ((s.rxDone free acc rest).raise .streamClosed n acc.length)
    | .timeout acc rest =>
      .error () ((s.rxDone free acc rest).raise (if acc = [] then .noResponse else .shortResponse) n acc.length)
    | .waiting acc => .error () ((s.rxDone free acc []).raise .noResponse n acc.length)

/-- `seq <- q`. -/
def moveSeq (q : Seq) : Engine Unit := update fun s => { s with seq := q }

/-- The byte at a position of a received string; every rule reads only positions that exist. -/
def byteAt (bs : List Byte) (i : Nat) : Byte := bs.getD i 0

/-- The word whose octets stand at positions `i` (high) and `i + 1`. -/
def wordAt (bs : List Byte) (i : Nat) : Word := ofOctets (byteAt bs i) (byteAt bs (i + 1))

/-- The received CRC whose low octet stands at position `i` (20_memory.md R65). -/
def crcAt (bs : List Byte) (i : Nat) : Word := ofOctets (byteAt bs (i + 1)) (byteAt bs i)

/-! ### Reset event -/

/-- The reset event in a running machine (70_reset_and_hazards.md R340, R341): every register has its value of
10_state.md R45 under the instance's own parameters; the device, the bytes waiting in the receive stream, the bytes
already sent and what is yet to be presented are not touched. It comes between two steps (entry 25). -/
def State.afterReset (s : State) : State :=
  { State.reset with
    cfg := s.cfg
    hc := List.replicate s.hc.length ⟨false, HwConfig.unloaded⟩
    tmo := s.cfg.tmoDefault
    inbox := s.inbox
    sent := s.sent
    env := s.env
    draws := s.draws }

end Sys2Proof.Machine
end

