-- ==== Sys2Proof/Machine/Cast.lean ====
section
/-! DEFINITION. Unit U2, the saturating round converters: CAST.S16, CAST.U16 (spec/42_casts.md R211, R212). -/

namespace Sys2Proof.Machine

/-- CAST.S16 (R211). -/
def opCastS16 (x : Rat) : Engine Unit := do
  update fun s => { s with scr := castS16 s.cfg x }
  succeed

/-- CAST.U16 (R212). -/
def opCastU16 (x : Rat) : Engine Unit := do
  update fun s => { s with scr := castU16 s.cfg x }
  succeed

/-- Meaning of CAST.S16. -/
def execCastS16 (x : Rat) (s : State) : Host.Outcome State Fault Refusal := .next (runOp (opCastS16 x) s)
/-- Meaning of CAST.U16. -/
def execCastU16 (x : Rat) (s : State) : Host.Outcome State Fault Refusal := .next (runOp (opCastU16 x) s)

end Sys2Proof.Machine
end

