-- ==== Sys2Proof/Machine/Gain.lean ====
section
/-! DEFINITION. Unit U3, the gain codec: G.S2C, G.C2S, G.I2C, G.C2I, G.TABLE (spec/43_gain.md R222 to R226). The
operations of each formula are made in the order its pseudocode writes them. -/

namespace Sys2Proof.Machine

/-- `s2c(a1, r)` (R222). -/
def s2c (cfg : Config) (a1 r : Rat) : Rat :=
  clamp (round1 cfg (qDiv cfg (qMul cfg (qMul cfg slopePrescale a1) r) cfg.codeDbRatio)) codeMinUser codeMaxUser

/-- `c2s(code, r)` (R223): unclamped. -/
def c2s (cfg : Config) (code r : Rat) : Rat := qDiv cfg (qMul cfg code cfg.codeDbRatio) (qMul cfg slopePrescale r)

/-- `i2c(a0)` (R224): the user floor and the applied ceiling. -/
def i2c (cfg : Config) (a0 : Rat) : Rat :=
  clamp (round1 cfg (qDiv cfg (qSub cfg a0 cfg.chainDb) cfg.codeDbRatio)) codeMinUser codeMaxApplied

/-- `c2i(code)` (R225): unclamped. -/
def c2i (cfg : Config) (code : Rat) : Rat := qAdd cfg (qMul cfg code cfg.codeDbRatio) cfg.chainDb

/-- The effective code of cell `i` under a law: `clamp(c + (i · slope) / 16, 50, 1241)` (R226). -/
def effectiveCode (cfg : Config) (c slope : Rat) (i : Nat) : Rat :=
  clamp (qAdd cfg c (qDiv cfg (qMul cfg i slope) 16)) codeMinApplied codeMaxApplied

/-- `d(i)`: the smaller dB value, the blind one on a tie (R226, R227). -/
def selectDb (blindDb lawDb : Rat) : Rat := if blindDb ≤ lawDb then blindDb else lawDb

/-- `g(i)` of the gain table (R226). -/
def gainCell (cfg : Config) (ci cs bi bs : Rat) (i : Nat) : Gain :=
  ⟨selectDb (c2i cfg (effectiveCode cfg bi bs i)) (c2i cfg (effectiveCode cfg ci cs i))⟩

/-- The table's cells from cell `i` on. -/
def gainCells (cfg : Config) (ci cs bi bs : Rat) (i : Nat) : Nat → List Gain
  | 0 => []
  | n + 1 => gainCell cfg ci cs bi bs i :: gainCells cfg ci cs bi bs (i + 1) n

/-- `gtab(n, ci, cs, bi, bs)` (R226). -/
def gtab (cfg : Config) (n : Nat) (ci cs bi bs : Rat) : List Gain := gainCells cfg ci cs bi bs 0 n

/-- The number a gain factor stands for, under an interpretation of `pow10_20` (00_scope.md R12). -/
def Gain.value {K : Type} (pow : Rat → K) (g : Gain) : K := pow g.db

/-- G.S2C (R222). -/
def opGS2C (a1 r : Rat) : Engine Unit := do
  update fun s => { s with scr := s2c s.cfg a1 r }
  succeed

/-- G.C2S (R223). -/
def opGC2S (code r : Rat) : Engine Unit := do
  require (r ≠ 0) .divZero 0 0
  update fun s => { s with scr := c2s s.cfg code r }
  succeed

/-- G.I2C (R224). -/
def opGI2C (a0 : Rat) : Engine Unit := do
  update fun s => { s with scr := i2c s.cfg a0 }
  succeed

/-- G.C2I (R225). -/
def opGC2I (code : Rat) : Engine Unit := do
  update fun s => { s with scr := c2i s.cfg code }
  succeed

/-- G.TABLE (R226). -/
def opGTable (n : BitVec 15) (ci cs bi bs : Rat) : Engine Unit := do
  update fun s => { s with gt := gtab s.cfg n.toNat ci cs bi bs }
  succeed

/-- Meaning of G.S2C. -/
def execGS2C (a1 r : Rat) (s : State) : Host.Outcome State Fault Refusal := .next (runOp (opGS2C a1 r) s)
/-- Meaning of G.C2S. -/
def execGC2S (code r : Rat) (s : State) : Host.Outcome State Fault Refusal := .next (runOp (opGC2S code r) s)
/-- Meaning of G.I2C. -/
def execGI2C (a0 : Rat) (s : State) : Host.Outcome State Fault Refusal := .next (runOp (opGI2C a0) s)
/-- Meaning of G.C2I. -/
def execGC2I (code : Rat) (s : State) : Host.Outcome State Fault Refusal := .next (runOp (opGC2I code) s)
/-- Meaning of G.TABLE. -/
def execGTable (n : BitVec 15) (ci cs bi bs : Rat) (s : State) : Host.Outcome State Fault Refusal :=
  .next (runOp (opGTable n ci cs bi bs) s)

end Sys2Proof.Machine
end

