-- ==== Sys2Proof/Machine/ConfigCodec.lean ====
section
/-! DEFINITION. Unit U4, the acoustic-configuration codec: CFG.FROMUSER, CFG.FROMREGS, CFG.TOREGS, CFG.TOUSER,
CFG.BLOCKDUR, CFG.EQ (spec/44_config.md). The operations of each formula are made in the order its pseudocode writes
them. -/

namespace Sys2Proof.Machine

/-! ### The forward chain (R242 to R254) -/

/-- `div_f0` (R243). -/
def divF0 (cfg : Config) (f0 : Rat) : Int := castS16 cfg (qSub cfg (qDiv cfg cfg.fSys f0) 1)

/-- The effective frequency `fsys / (div_f0 + 1)` (R243). -/
def effectiveF0 (cfg : Config) (div : Int) : Rat := qDiv cfg cfg.fSys ((div + 1 : Int) : Rat)

/-- `c_prf` (R244). -/
def prfDivisor (cfg : Config) (f0e prf : Rat) : Int := castS16 cfg (qDiv cfg f0e prf)

/-- `n_em` (R246): 0 only if the requested emission range is 0. -/
def emissionCount (cfg : Config) (f0e rEm c : Rat) : Int :=
  if rEm = 0 then 0 else max 1 (castS16 cfg (qDiv cfg (qMul cfg (qMul cfg 2 f0e) rEm) c))

/-- `c / (2 · f0e) · n`: the range of a count of half wave periods (R246, R248). -/
def codeRange (cfg : Config) (c f0e : Rat) (n : Int) : Rat := qMul cfg (qDiv cfg c (qMul cfg 2 f0e)) n

/-- `2 · f0e / c · r`: the count of a range (R247, R248). -/
def rangeCode (cfg : Config) (c f0e r : Rat) : Rat := qMul cfg (qDiv cfg (qMul cfg 2 f0e) c) r

/-- `c_vol1` (R247). -/
def firstVolumeCode (cfg : Config) (c f0e rVol1 rEmE : Rat) : Int :=
  castU16 cfg (rangeCode cfg c f0e (qSub cfg rVol1 (qDiv cfg rEmE 2)))

/-- The settling floor `ceil(0.75e-6 · f0e + 1)` (R248). -/
def settlingFloor (cfg : Config) (f0e : Rat) : Int := (qAdd cfg (qMul cfg settleK f0e) 1).ceil

/-- `c_dvol` (R248). -/
def spacingCode (cfg : Config) (c f0e rDvol : Rat) : Int :=
  castS16 cfg ((max (castS16 cfg (rangeCode cfg c f0e rDvol)) (settlingFloor cfg f0e) : Int) : Rat)

/-- `phi_min` (R251). -/
def phaseCode (cfg : Config) (vMin : Rat) (cprf : Int) (c : Rat) : Int :=
  castS16 cfg (qDiv cfg (qMul cfg (qMul cfg vMin cprf) velScale) c)

/-- The blind-zone codes (R254). -/
def blindCodes (cfg : Config) (blind : Option BlindLimits) (rdve : Rat) : Int × Int :=
  match blind with
  | none => (cfg.blindCa0, cfg.blindCa1)
  | some b => (castS16 cfg (i2c cfg b.a0Max), castS16 cfg (s2c cfg b.a1Max rdve))

/-- The 17 words CFG.FROMUSER computes, from the rounded divider on (R242). -/
def fromUser (cfg : Config) (div : Int) (a : AcousticConfig) (c : Rat) (blind : Option BlindLimits) : HwConfig :=
  let f0e := effectiveF0 cfg div
  let cprf := prfDivisor cfg f0e a.prf
  let nem := emissionCount cfg f0e a.rEm c
  let reme := codeRange cfg c f0e nem
  let cdvol := spacingCode cfg c f0e a.rDvol
  let rdve := codeRange cfg c f0e cdvol
  let b := blindCodes cfg blind rdve
  { divF0 := pat div
    nTir := pat (castS16 cfg a.nEch)
    cPrf := pat cprf
    nEm := pat nem
    nVol := pat (castS16 cfg a.nVol)
    cVol1 := pat (firstVolumeCode cfg c f0e a.rVol1 reme)
    cDvol := pat cdvol
    gainCa0 := pat (castS16 cfg (i2c cfg a.gainA0))
    gainCa1 := pat (castS16 cfg (s2c cfg a.gainA1 rdve))
    tr := 0
    phiMin := pat (phaseCode cfg a.vMin cprf c)
    method := encodeMode a.burstMode a.phaseCoding a.staticEchoFilter a.gainAuto
    reserved1 := 0
    reserved2 := 0
    nAvg := pat (castS16 cfg a.nAvg)
    blindCa0 := pat b.1
    blindCa1 := pat b.2 }

/-- CFG.FROMUSER (R242), its faults in the order of R255. -/
def opCfgFromUser (i : Nat) (a : AcousticConfig) (c : Rat) (blind : Option BlindLimits) : Engine Unit := do
  checkSlot i
  let cfg ← inspect State.cfg
  require (¬ (a.f0 = 0 ∨ a.prf = 0 ∨ c = 0)) .divZero 0 0
  let div := divF0 cfg a.f0
  require (div + 1 ≠ 0) .divZero 0 0
  update fun s => s.loadSlot i (fromUser cfg div a c blind)
  succeed

/-! ### The register-list pair (R256, R257) -/

/-- CFG.FROMREGS (R256). -/
def opCfgFromRegs (i : Nat) (l : List Word) : Engine Unit := do
  checkSlot i
  match HwConfig.ofRegs l with
  | none => raise .cfgLength l.length 0
  | some h => do
    update fun s => s.loadSlot i h
    succeed

/-- CFG.TOREGS (R257). -/
def opCfgToRegs (i : Nat) : Engine Unit := do
  checkSlot i
  checkLoaded i
  update fun s => { s with rl := (s.slotRegs i).toRegs }
  succeed

/-! ### CFG.TOUSER (R258) -/

/-- The divisors of R258, one of which is zero. -/
abbrev toUserDivZero (h : HwConfig) (c : Rat) : Prop :=
  sRead h.divF0 + 1 = 0 ∨ sRead h.cPrf = 0 ∨ c = 0 ∨ sRead h.cDvol = 0

/-- The achieved physical values (R258). -/
def toUser (cfg : Config) (h : HwConfig) (c : Rat) : AcousticConfig :=
  let f0 := effectiveF0 cfg (sRead h.divF0)
  let rEm := codeRange cfg c f0 (sRead h.nEm)
  let rDvol := codeRange cfg c f0 (sRead h.cDvol)
  { f0 := f0
    prf := qDiv cfg f0 (sRead h.cPrf)
    nEch := sRead h.nTir
    rEm := rEm
    rVol1 := qAdd cfg (codeRange cfg c f0 (uRead h.cVol1)) (qDiv cfg rEm 2)
    rDvol := rDvol
    nVol := sRead h.nVol
    gainA0 := c2i cfg (sRead h.gainCa0)
    gainA1 := c2s cfg (sRead h.gainCa1) rDvol
    gainAuto := gainAuto h.method
    staticEchoFilter := staticEchoFilter h.method
    phaseCoding := phaseCoding h.method
    burstMode := burstMode cfg.burstTest h.method
    nAvg := sRead h.nAvg
    vMin := qDiv cfg (qMul cfg (sRead h.phiMin) c) (qMul cfg (sRead h.cPrf) velScale) }

/-- `UCR` after a fault of CFG.TOUSER: unspecified (R258), that is free. -/
def State.toUserFailed (s : State) : State := { s with ucr := Config.freeUcr s.draws, draws := s.draws + 1 }

/-- CFG.TOUSER (R258). -/
def opCfgToUser (i : Nat) (c : Rat) : Engine Unit :=
  onFault (do
      checkSlot i
      checkLoaded i
      let h ← inspect (State.slotRegs · i)
      require (¬ toUserDivZero h c) .divZero 0 0
      update fun s => { s with ucr := toUser s.cfg h c }
      succeed)
    State.toUserFailed

/-! ### CFG.BLOCKDUR and CFG.EQ (R261, R262) -/

/-- `s(n_tir) · s(n_avg) · (s(div_f0) + 1) · s(c_prf) / fsys` (R261). -/
def blockDuration (cfg : Config) (h : HwConfig) : Rat :=
  qDiv cfg
    (qMul cfg (qMul cfg (qMul cfg (sRead h.nTir) (sRead h.nAvg)) ((sRead h.divF0 + 1 : Int) : Rat)) (sRead h.cPrf))
    cfg.fSys

/-- CFG.BLOCKDUR (R261). -/
def opCfgBlockDur (i : Nat) : Engine Unit := do
  checkSlot i
  checkLoaded i
  update fun s => { s with bdur := blockDuration s.cfg (s.slotRegs i) }
  succeed

/-- CFG.EQ (R262): all 17 words. -/
def opCfgEq (i j : Nat) : Engine Unit := do
  checkSlot i
  checkSlot j
  checkLoaded i
  checkLoaded j
  update fun s => { s with eqf := decide (s.slotRegs i = s.slotRegs j) }
  succeed

/-- Meaning of CFG.FROMUSER. -/
def execCfgFromUser (i : Nat) (a : AcousticConfig) (c : Rat) (blind : Option BlindLimits) (s : State) :
    Host.Outcome State Fault Refusal := .next (runOp (opCfgFromUser i a c blind) s)
/-- Meaning of CFG.FROMREGS. -/
def execCfgFromRegs (i : Nat) (l : List Word) (s : State) : Host.Outcome State Fault Refusal :=
  .next (runOp (opCfgFromRegs i l) s)
/-- Meaning of CFG.TOREGS. -/
def execCfgToRegs (i : Nat) (s : State) : Host.Outcome State Fault Refusal := .next (runOp (opCfgToRegs i) s)
/-- Meaning of CFG.TOUSER. -/
def execCfgToUser (i : Nat) (c : Rat) (s : State) : Host.Outcome State Fault Refusal :=
  .next (runOp (opCfgToUser i c) s)
/-- Meaning of CFG.BLOCKDUR. -/
def execCfgBlockDur (i : Nat) (s : State) : Host.Outcome State Fault Refusal := .next (runOp (opCfgBlockDur i) s)
/-- Meaning of CFG.EQ. -/
def execCfgEq (i j : Nat) (s : State) : Host.Outcome State Fault Refusal := .next (runOp (opCfgEq i j) s)

end Sys2Proof.Machine
end

