-- ==== Sys2Proof/Machine/Crc.lean ====
section
/-! DEFINITION. Unit U0, the CRC engine: CRC.COMPUTE, CRC.INIT, CRC.UPDATE, CRC.READ, CRC.CHECK
(spec/40_crc.md R145 to R149). -/

namespace Sys2Proof.Machine

/-- CRC.COMPUTE (R145): `SCR <- crc16(d)`, in a private register. -/
def opCrcCompute (d : List Byte) : Engine Unit := do
  update fun s => { s with scr := (crc16 d).toNat }
  succeed

/-- CRC.INIT (R146). -/
def opCrcInit : Engine Unit := do
  update fun s => { s with crcr := crcInitValue }
  succeed

/-- CRC.UPDATE (R147). -/
def opCrcUpdate (b : Byte) : Engine Unit := do
  update fun s => { s with crcr := crcStep s.crcr b }
  succeed

/-- CRC.READ (R148). -/
def opCrcRead : Engine Unit := do
  update fun s => { s with scr := s.crcr.toNat }
  succeed

/-- Compute-and-compare over a frame with its two CRC octets last, low octet first (R149). -/
def crcCheck (f : List Byte) : Bool :=
  let n := f.length
  crcMatches (crc16 (f.take (n - 2))) (byteAt f (n - 2)) (byteAt f (n - 1))

/-- CRC.CHECK (R149). -/
def opCrcCheck (f : List Byte) : Engine Unit := do
  require (2 ≤ f.length) .shortFrame f.length 0
  update fun s => { s with eqf := crcCheck f }
  succeed

/-- Meaning of CRC.COMPUTE. -/
def execCrcCompute (d : List Byte) (s : State) : Host.Outcome State Fault Refusal := .next (runOp (opCrcCompute d) s)
/-- Meaning of CRC.INIT. -/
def execCrcInit (s : State) : Host.Outcome State Fault Refusal := .next (runOp opCrcInit s)
/-- Meaning of CRC.UPDATE. -/
def execCrcUpdate (b : Byte) (s : State) : Host.Outcome State Fault Refusal := .next (runOp (opCrcUpdate b) s)
/-- Meaning of CRC.READ. -/
def execCrcRead (s : State) : Host.Outcome State Fault Refusal := .next (runOp opCrcRead s)
/-- Meaning of CRC.CHECK. -/
def execCrcCheck (f : List Byte) (s : State) : Host.Outcome State Fault Refusal := .next (runOp (opCrcCheck f) s)

end Sys2Proof.Machine
end

