-- ==== Sys2Proof/Machine/Transport.lean ====
section
/-! DEFINITION. Unit U1, transport and framing: RD.W, WR.W, RD.BUF, WR.BUF, CSR.RD, CSR.WR, LINK.OPEN, LINK.CLOSE and
the load and store primitives (spec/41_transport.md). An operation runs to its end in one step of the model, passing
through the sequencer states its pseudocode names. -/

namespace Sys2Proof.Machine

/-! ### Checks before any byte is sent (R162, R163) -/

/-- Check (a): the word count. -/
def checkCount (n limit : Nat) : Engine Unit := require (1 ≤ n ∧ n ≤ limit) .countRange n 0

/-- Check (b): the address range. -/
def checkAddr (addr : Word) (n : Nat) : Engine Unit := require (addr.toNat + n ≤ 65536) .addrRange addr.toNat n

/-- The link precondition (R162). -/
def checkLink : Engine Unit := do
  let l ← inspect State.link
  require (l = true) .linkNotOpen 0 0

/-- The bound of an operation: its operand, or the register `TMO` (R166). -/
def State.bound (s : State) (tmo : Option Rat) : Rat := tmo.getD s.tmo

/-- `BUSY <- 1 ; SEGCNT <- SEGCNT + 1`: a transaction starts. -/
def startTransaction : Engine Unit := update fun s => { s with busy := true, segcnt := s.segcnt + 1 }

/-- `STATUS <- 0 ; BUSY <- 0 ; seq <- IDLE`: the end of a successful transport operation. -/
def finishTransport : Engine Unit :=
  update fun s => { s with status := 0, busy := false, seq := .idle, pend := none }

/-- The slave test, made only under `CHECK_SLAVE` (R175). -/
def checkSlave (h : Byte) : Engine Unit := do
  let cfg ← inspect State.cfg
  require (cfg.checkSlave = false ∨ h = cfg.slaveAddr) .wrongSlave h.toNat 0

/-! ### MemRead (R171) -/

/-- The request half of `MemRead`. -/
def sendRead (addr count : Word) (bound : Rat) : Engine Unit := do
  let slave ← inspect fun s => s.cfg.slaveAddr
  sendRequest (readBody slave addr count) ⟨.read count, bound⟩

/-- The response half of `MemRead`: staged reception, then the checks in the order of R200. -/
def receiveRead (count : Word) (bound : Rat) : Engine (List Word) := do
  moveSeq .rx1
  let h ← receive 3 bound
  checkSlave (byteAt h 0)
  require (byteAt h 1 = fcRead) .wrongFunction (byteAt h 1).toNat 0
  let bc := (byteAt h 2).toNat
  moveSeq .rx2
  let t ← receive (bc + 2) bound
  moveSeq .check
  let f := h ++ t
  let c := crc16 (f.take (3 + bc))
  require (crcMatches c (byteAt f (3 + bc)) (byteAt f (4 + bc)) = true) .crcMismatch c.toNat (crcAt f (3 + bc)).toNat
  require (bc = 2 * count.toNat) .badByteCount bc count.toNat
  return bytesToWords (t.take bc)

/-- `MemRead(addr, count)`. -/
def memRead (addr count : Word) (bound : Rat) : Engine (List Word) := do
  sendRead addr count bound
  receiveRead count bound

/-! ### MemWrite (R181) -/

/-- The request half of `MemWrite`. -/
def sendWrite (addr : Word) (v : List Word) (bound : Rat) : Engine Unit := do
  let slave ← inspect fun s => s.cfg.slaveAddr
  sendRequest (writeBody slave addr v) ⟨.write, bound⟩

/-- The success path (R183): the CRC is checked, the echo stored and not compared. -/
def receiveAck (h : List Byte) (bound : Rat) : Engine Unit := do
  moveSeq .rx2
  let t ← receive 6 bound
  moveSeq .check
  let f := h ++ t
  let c := crc16 (f.take 6)
  require (crcMatches c (byteAt f 6) (byteAt f 7) = true) .crcMismatch c.toNat (crcAt f 6).toNat
  update fun s => { s with echoaddr := wordAt f 2, echocnt := wordAt f 4 }

/-- The failure path (R184): no CRC, the payload kept uninterpreted, always a `WRITE_NAK` or an earlier fault. `ERRBUF`
is written when the whole payload has been read, as R181 writes it; a fault in the middle of the payload leaves it as it
was, although 60_exceptions.md R322 can be read as keeping the bytes read so far (DEDUCED, entry 24). -/
def receiveNak (errFunc : Byte) (bound : Rat) : Engine Unit := do
  update fun s => { s with errfunc := errFunc }
  moveSeq .rx2
  let l ← receive 1 bound
  let len := byteAt l 0
  update fun s => { s with errlen := len }
  moveSeq .rx3
  let p ← receive len.toNat bound
  update fun s => { s with errbuf := cellsWriteAll s.errbuf 0 p }
  raise .writeNak errFunc.toNat len.toNat

/-- The response half of `MemWrite`: the function byte selects the path (30_encoding.md R97). -/
def receiveWrite (bound : Rat) : Engine Unit := do
  moveSeq .rx1
  let h ← receive 2 bound
  checkSlave (byteAt h 0)
  if byteAt h 1 = fcWrite then receiveAck h bound else receiveNak (byteAt h 1) bound

/-! ### RD.W (R170) -/

/-- What a faulting read leaves (R177, R193): `RDCNT <- 0`, `RDB` unspecified, that is free. -/
def State.readFailed (s : State) : State :=
  { s with
    rdcnt := 0
    rdb := cellsWriteAll [] 0 ((Config.freeRdb s.draws).take 65536)
    draws := s.draws + 1 }

/-- RD.W up to its request frame. -/
def beginRead (addr count : Word) (bound : Rat) : Engine Unit := do
  update fun s => { s with rdcnt := 0, segcnt := 0 }
  checkCount count.toNat maxRd
  checkAddr addr count.toNat
  checkLink
  startTransaction
  sendRead addr count bound

/-- RD.W from the response on. -/
def endRead (count : Word) (bound : Rat) : Engine Unit := do
  let w ← receiveRead count bound
  update fun s => { s with rdb := cellsWriteAll s.rdb 0 w, rdcnt := count.setWidth 17 }
  finishTransport

/-- RD.W. -/
def opRdW (addr count : Word) (tmo : Option Rat) : Engine Unit := do
  let bound ← inspect (State.bound · tmo)
  onFault (do beginRead addr count bound; endRead count bound) State.readFailed

/-! ### WR.W, WR.BUF (R180, R195) -/

/-- The operand checks of a write; one refused by them leaves `RDCNT = 0` as well (R163; entry 15). -/
def checkWrite (addr : Word) (n : Nat) : Engine Unit :=
  onFault (do checkCount n maxWr; checkAddr addr n) fun s => { s with rdcnt := 0 }

/-- A write up to its request frame. -/
def beginWrite (addr : Word) (v : List Word) (bound : Rat) : Engine Unit := do
  update fun s => { s with segcnt := 0 }
  checkWrite addr v.length
  checkLink
  startTransaction
  sendWrite addr v bound

/-- A write from the response on. -/
def endWrite (bound : Rat) : Engine Unit := do
  receiveWrite bound
  finishTransport

/-- WR.W; WR.BUF is the same word for word. -/
def opWrW (addr : Word) (v : List Word) (tmo : Option Rat) : Engine Unit := do
  let bound ← inspect (State.bound · tmo)
  beginWrite addr v bound
  endWrite bound

/-! ### RD.BUF (R190) -/

/-- One segment: `k = min(REM, 125)` words at `CUR`, delivered at their place in `RDB`. -/
def readSegment (total : BitVec 17) (bound : Rat) : Engine Unit := do
  let cur ← inspect State.cur
  let rem ← inspect State.rem
  let k := min rem.toNat maxRd
  startTransaction
  let w ← memRead (cur.setWidth 16) (BitVec.ofNat 16 k) bound
  update fun s =>
    { s with
      rdb := cellsWriteAll s.rdb (total.toNat - rem.toNat) w
      cur := cur + BitVec.ofNat 17 k
      rem := rem - BitVec.ofNat 17 k
      seq := .nextSeg }

/-- The segments, at most `fuel` of them, while words remain. -/
def readSegments (total : BitVec 17) (bound : Rat) : Nat → Engine Unit
  | 0 => pure ()
  | fuel + 1 => do
    let rem ← inspect State.rem
    if rem = 0 then pure ()
    else do
      readSegment total bound
      readSegments total bound fuel

/-- `ceil(total / 125)`, the number of segments (R190). -/
def segmentCount (total : Nat) : Nat := (total + 124) / 125

/-- RD.BUF of any number of words; past the address check the total is a 17-bit number. -/
def opRdBuf (addr : Word) (total : Nat) (tmo : Option Rat) : Engine Unit := do
  let bound ← inspect (State.bound · tmo)
  onFault (do
      update fun s => { s with rdcnt := 0, segcnt := 0 }
      checkAddr addr total
      checkLink
      update fun s => { s with busy := true, cur := addr.setWidth 17, rem := BitVec.ofNat 17 total }
      readSegments (BitVec.ofNat 17 total) bound (segmentCount total)
      update fun s => { s with rdcnt := BitVec.ofNat 17 total }
      finishTransport)
    State.readFailed

/-! ### A response to a request already sent -/

/-- The engine's move while a transaction is open: it receives the response its request awaits and ends the
operation (10_state.md R27; 20_memory.md R72). -/
def State.completePending (s : State) (p : Pending) : State :=
  match p.awaited with
  | .read count => runOp (onFault (endRead count p.bound) State.readFailed) s
  | .write => runOp (endWrite p.bound) s

/-- The device's move: it puts bytes on the receive stream; an engine that awaits a response then receives it. -/
def State.deliver (s : State) (bytes : List Byte) : State :=
  let s' := { s with env := { s.env with rx := s.env.rx ++ [⟨.data bytes, false⟩] } }
  match s.pend with
  | some p => s'.completePending p
  | none => s'

/-! ### Link and registers (R196 to R199) -/

/-- LINK.OPEN (R196). -/
def opLinkOpen : Engine Unit := do
  let a ← inspect State.openAnswer
  update fun s => { s.openDrawn with link := a.ok }
  require (a.ok = true) .openFail 0 0
  succeed

/-- LINK.CLOSE (R197). -/
def opLinkClose : Engine Unit := do
  update fun s => { s with link := false }
  succeed

/-- CSR.RD (R198): a successful one writes neither `STATUS` nor the information words. -/
def opCsrRd (r : Byte) : Engine Unit := do
  let v ← inspect (csrValue r)
  match v with
  | some x => update fun s => { s with scr := x }
  | none => raise .badCsr r.toNat 0

/-- CSR.WR (R199): only `TMO` is writable. -/
def opCsrWr (r : Byte) (value : Rat) : Engine Unit := do
  require (r = 0x03) .badCsr r.toNat 0
  update fun s => { s with tmo := value }
  succeed

/-! ### Meanings -/

/-- Meaning of RD.W. -/
def execRdW (addr count : Word) (tmo : Option Rat) (s : State) : Host.Outcome State Fault Refusal :=
  .next (runOp (opRdW addr count tmo) s)
/-- Meaning of WR.W. -/
def execWrW (addr : Word) (v : List Word) (tmo : Option Rat) (s : State) : Host.Outcome State Fault Refusal :=
  .next (runOp (opWrW addr v tmo) s)
/-- Meaning of RD.BUF. -/
def execRdBuf (addr : Word) (total : BitVec 17) (tmo : Option Rat) (s : State) : Host.Outcome State Fault Refusal :=
  .next (runOp (opRdBuf addr total.toNat tmo) s)
/-- Meaning of WR.BUF: it never splits its input (R195). -/
def execWrBuf (addr : Word) (v : List Word) (tmo : Option Rat) (s : State) : Host.Outcome State Fault Refusal :=
  .next (runOp (opWrW addr v tmo) s)
/-- Meaning of CSR.RD. -/
def execCsrRd (r : Byte) (s : State) : Host.Outcome State Fault Refusal := .next (runOp (opCsrRd r) s)
/-- Meaning of CSR.WR. -/
def execCsrWr (r : Byte) (value : Rat) (s : State) : Host.Outcome State Fault Refusal :=
  .next (runOp (opCsrWr r value) s)
/-- Meaning of LINK.OPEN. -/
def execLinkOpen (s : State) : Host.Outcome State Fault Refusal := .next (runOp opLinkOpen s)
/-- Meaning of LINK.CLOSE. -/
def execLinkClose (s : State) : Host.Outcome State Fault Refusal := .next (runOp opLinkClose s)

end Sys2Proof.Machine
end

