-- ==== Sys2Proof/Machine/Frames.lean ====
section
/-! DEFINITION. The five frames (spec/30_encoding.md R92 to R96) as moves of their own. DESIGN CHOICE (entry 5): a
request frame is the engine's move that opens a transaction and waits for its response (the first half of RD.W or
WR.W); a response frame is the device's move that puts the frame on the line, where the engine receives it if it
awaits a response, by the second half of the same operation. -/

namespace Sys2Proof.Machine

/-- Sending `RDREQ`: RD.W up to its request, under the bound `TMO` (R92; 41_transport.md R170). -/
def opRdreq (addr count : Word) : Engine Unit := do
  let bound ← inspect (State.bound · none)
  onFault (beginRead addr count bound) State.readFailed

/-- Sending `WRREQ`: WR.W up to its request, under the bound `TMO` (R94; 41_transport.md R180). -/
def opWrreq (addr : Word) (v : List Word) : Engine Unit := do
  let bound ← inspect (State.bound · none)
  beginWrite addr v bound

/-- Meaning of RDREQ. -/
def execRdreq (addr count : Word) (s : State) : Host.Outcome State Fault Refusal :=
  .next (runOp (opRdreq addr count) s)
/-- Meaning of RDRSP (R93). -/
def execRdrsp (slave : Byte) (payload : List Byte) (crc : Word) (s : State) : Host.Outcome State Fault Refusal :=
  .next (s.deliver (readResponse slave payload crc))
/-- Meaning of WRREQ. -/
def execWrreq (addr : Word) (v : List Word) (s : State) : Host.Outcome State Fault Refusal :=
  .next (runOp (opWrreq addr v) s)
/-- Meaning of WRACK (R95). -/
def execWrack (slave : Byte) (addr count crc : Word) (s : State) : Host.Outcome State Fault Refusal :=
  .next (s.deliver (writeAck slave addr count crc))
/-- Meaning of WRERR (R96). -/
def execWrerr (slave errFunc : Byte) (payload : List Byte) (s : State) : Host.Outcome State Fault Refusal :=
  .next (s.deliver (writeError slave errFunc payload))

end Sys2Proof.Machine
end

