-- ==== Sys2Proof/Machine/Timestamp.lean ====
section
/-! DEFINITION. Unit U5, the timestamp packer and unpacker: TS.ENC, TS.DEC (spec/45_timestamp.md R281 to R284). -/

namespace Sys2Proof.Machine

/-- The seconds TS.ENC accepts: `-2^30` to `2^30 - 1` (R282). -/
abbrev secInSpan (sec : Int) : Prop := -1073741824 ≤ sec ∧ sec ≤ 1073741823

/-- The milliseconds TS.ENC accepts (R282). -/
abbrev msInSpan (ms : Int) : Prop := 0 ≤ ms ∧ ms ≤ 999

/-- `pat(sec >> 15)` (R281). -/
def tsHigh (sec : Int) : Word := pat (sec / 32768)

/-- `pat(sec & 0x7FFF)` (R281). -/
def tsLow (sec : Int) : Word := pat (sec % 32768)

/-- `(s(w0) << 15) | s(w1)` on unbounded integers (R283). Both operands fit 32 bits with their sign, so the OR of the
32-bit patterns, read as signed, is the unbounded OR (DEDUCED, entry 20). -/
def tsSeconds (w0 w1 : Word) : Int := ((w0.signExtend 32 <<< 15) ||| w1.signExtend 32).toInt

/-- TS.ENC (R281), `sec` tested before `ms`. -/
def opTsEnc (sec ms : Int) : Engine Unit := do
  require (secInSpan sec) .tsRange 0 0
  require (msInSpan ms) .tsRange 1 0
  update fun s => { s with tsw0 := tsHigh sec, tsw1 := tsLow sec, tsw2 := pat ms }
  succeed

/-- TS.DEC (R283). -/
def opTsDec (w0 w1 w2 : Word) : Engine Unit := do
  update fun s => { s with tssec := tsSeconds w0 w1, tsms := sRead w2 }
  succeed

/-- Meaning of TS.ENC. -/
def execTsEnc (sec ms : Int) (s : State) : Host.Outcome State Fault Refusal := .next (runOp (opTsEnc sec ms) s)
/-- Meaning of TS.DEC. -/
def execTsDec (w0 w1 w2 : Word) (s : State) : Host.Outcome State Fault Refusal :=
  .next (runOp (opTsDec w0 w1 w2) s)

end Sys2Proof.Machine
end

