-- ==== Sys2Proof/Machine/Profile.lean ====
section
/-! DEFINITION. Unit U6, the profile-data decoder: PROF.DEC (spec/46_profile.md R290 to R299). -/

namespace Sys2Proof.Machine

/-- The byte length of a block of `n` cells, `2·(11 + 4·n)` (R293); an integer, since `n` may be negative. -/
def profileBytes (n : Int) : Int := 2 * (profileHeadWords + 4 * n)

/-- The velocity factor `fv = PR.hdr[3] / (cprf · 65535)` (R296). -/
def velocityFactor (cfg : Config) (soundSpeed cprf : Int) : Rat :=
  qDiv cfg soundSpeed (qMul cfg cprf velScale)

/-- `2 · VREF / 4096`, the amplitude factor before the division by `sqrt(navg)` (R299). Under `NUM = binary64` R291
divides it by `sqrt(navg)` before the product with `abs(ra)` and R299 after it; the model follows R299 (DESIGN CHOICE,
entry 13). -/
def amplitudeFactor (cfg : Config) : Rat := qDiv cfg (qMul cfg 2 cfg.vref) ampScale

/-- One cell from its four raw words (R291 steps 4 and 5). `std` follows the formula, so it takes the sign of `fv`:
negative where exactly one of `c_prf` and the header's sound speed is (R294, R300), although R296 calls it never
negative (DEDUCED, entry 26). Of the amplitude the product is rounded and the two quotients, by `sqrt(navg)` and by the
gain, are kept symbolic, so neither is rounded under `NUM = binary64` (entry 13). -/
def profileCell (cfg : Config) (fv : Rat) (navg : Int) (g : Gain) (rv rs ra rn : Int) : ProfileCell where
  vel := qMul cfg rv fv
  std := qMul cfg ((|rs| : Int) : Rat) fv
  amp := ⟨qMul cfg ((|ra| : Int) : Rat) (amplitudeFactor cfg), navg, g⟩
  snr := qDiv cfg rn snrDiv
  wrap := signFlag rs
  sat := signFlag ra

/-- The cells of a block: one gain and four words each, in order (30_encoding.md R122). -/
def profileCells (cfg : Config) (fv : Rat) (navg : Int) : List Gain → List Word → List ProfileCell
  | g :: gs, rv :: rs :: ra :: rn :: ws =>
      profileCell cfg fv navg g (sRead rv) (sRead rs) (sRead ra) (sRead rn) :: profileCells cfg fv navg gs ws
  | _, _ => []

/-- Word `j` of a block, read as signed (R292). -/
def blockWord (ws : List Word) (j : Nat) : Int := sRead (ws.getD j 0)

/-- The eight header scalars, words 3 to 10 (R295). -/
def profileHeader (ws : List Word) : ProfileHeader where
  pitch := blockWord ws 3
  roll := blockWord ws 4
  temperature := blockWord ws 5
  soundSpeed := blockWord ws 6
  gainIntercept := blockWord ws 7
  gainSlope := blockWord ws 8
  noise0 := blockWord ws 9
  noise1 := blockWord ws 10

/-- The gain table of a decode: the header's codes against the configuration's blind codes (R298). -/
def profileGains (cfg : Config) (h : HwConfig) (ws : List Word) : List Gain :=
  gtab cfg (sRead h.nVol).toNat (profileHeader ws).gainIntercept (profileHeader ws).gainSlope (sRead h.blindCa0)
    (sRead h.blindCa1)

/-- The record of a block that has passed its checks (R291). -/
def profileRecord (cfg : Config) (h : HwConfig) (ws : List Word) : ProfileRecord where
  sec := tsSeconds (ws.getD 0 0) (ws.getD 1 0)
  ms := blockWord ws 2
  hdr := profileHeader ws
  cells :=
    profileCells cfg (velocityFactor cfg (profileHeader ws).soundSpeed (sRead h.cPrf)) (sRead h.nAvg)
      (profileGains cfg h ws) (ws.drop profileHeadWords)

/-- The number an amplitude stands for, under interpretations of `sqrt` and `pow10_20` (R299). -/
def Amplitude.value {K : Type} [DivisionRing K] (root : Int → K) (pow : Rat → K) (a : Amplitude) : K :=
  (a.scale : K) / root a.navg / a.gain.value pow

/-- PROF.DEC (R291): every check before the first write. -/
def opProfDec (pb : List Byte) (i : Nat) : Engine Unit := do
  checkSlot i
  checkLoaded i
  let h ← inspect (State.slotRegs · i)
  let n := sRead h.nVol
  require (0 ≤ n ∧ (pb.length : Int) = profileBytes n) .profileSize (profileBytes n) pb.length
  require (sRead h.cPrf ≠ 0 ∧ 0 < sRead h.nAvg) .divZero 0 0
  let ws := bytesToWords pb
  update fun s => { s with pr := profileRecord s.cfg h ws, prv := true, gt := profileGains s.cfg h ws }
  succeed

/-- Meaning of PROF.DEC. -/
def execProfDec (pb : List Byte) (i : Nat) (s : State) : Host.Outcome State Fault Refusal :=
  .next (runOp (opProfDec pb i) s)

end Sys2Proof.Machine
end

