-- ==== Sys2Proof/Machine/Pseudo.lean ====
section
/-! DEFINITION. The three pseudo-operations of spec/30_encoding.md R104, each the sequence of the two operations it
expands to; a fault in the first ends the expansion. -/

namespace Sys2Proof.Machine

/-- WR.CFG: CFG.TOREGS s, then WR.W a, RL. -/
def opWrCfg (i : Nat) (a : Word) : Engine Unit := do
  opCfgToRegs i
  let rl ← inspect State.rl
  opWrW a rl none

/-- RD.CFG: RD.W a, 17, then CFG.FROMREGS s, RDB[0..16]. -/
def opRdCfg (i : Nat) (a : Word) : Engine Unit := do
  opRdW a 17 none
  let l ← inspect fun s => cellsReadAll s.rdb 0 cfgWords
  opCfgFromRegs i l

/-- The word total RD.PROF presents: `11 + 4·n_vol`. Where that is negative it is no number of words, the spec states no
total, and the operation runs with a free one (DESIGN CHOICE, entry 14). -/
def State.profileTotal (s : State) (i : Nat) : Nat :=
  let t : Int := profileHeadWords + 4 * sRead (s.slotRegs i).nVol
  if 0 ≤ t then t.toNat else (Config.freeTotal s.draws).toNat

/-- RD.PROF: RD.BUF a, 11 + 4·n_vol, then PROF.DEC of the big-endian bytes of RDB[0 .. RDCNT-1]. The total is read from
`HC[s]`, so the slot and valid tests of R241 and R316 come first (DEDUCED, entry 14). -/
def opRdProf (i : Nat) (a : Word) : Engine Unit := do
  checkSlot i
  checkLoaded i
  let total ← inspect (State.profileTotal · i)
  update fun s => { s with draws := s.draws + 1 }
  opRdBuf a total none
  let pb ← inspect fun s => wordsToBytes (cellsReadAll s.rdb 0 s.rdcnt.toNat)
  opProfDec pb i

/-- Meaning of WR.CFG. -/
def execWrCfg (i : Nat) (a : Word) (s : State) : Host.Outcome State Fault Refusal := .next (runOp (opWrCfg i a) s)
/-- Meaning of RD.CFG. -/
def execRdCfg (i : Nat) (a : Word) (s : State) : Host.Outcome State Fault Refusal := .next (runOp (opRdCfg i a) s)
/-- Meaning of RD.PROF. -/
def execRdProf (i : Nat) (a : Word) (s : State) : Host.Outcome State Fault Refusal := .next (runOp (opRdProf i a) s)

end Sys2Proof.Machine
end

