-- ==== Sys2Proof/Machine/Dispatch.lean ====
section
/-! DEFINITION. The one place that says which meaning an instruction has. -/

namespace Sys2Proof.Machine

def exec (i : Instr) (s : State) : Host.Outcome State Fault Refusal :=
  match i with
  | .crcCompute d => Sys2Proof.Machine.execCrcCompute d s
  | .crcInit => Sys2Proof.Machine.execCrcInit s
  | .crcUpdate b => Sys2Proof.Machine.execCrcUpdate b s
  | .crcRead => Sys2Proof.Machine.execCrcRead s
  | .crcCheck f => Sys2Proof.Machine.execCrcCheck f s
  | .rdW addr count tmo => Sys2Proof.Machine.execRdW addr count tmo s
  | .wrW addr v tmo => Sys2Proof.Machine.execWrW addr v tmo s
  | .rdBuf addr total tmo => Sys2Proof.Machine.execRdBuf addr total tmo s
  | .wrBuf addr v tmo => Sys2Proof.Machine.execWrBuf addr v tmo s
  | .csrRd r => Sys2Proof.Machine.execCsrRd r s
  | .csrWr r value => Sys2Proof.Machine.execCsrWr r value s
  | .linkOpen => Sys2Proof.Machine.execLinkOpen s
  | .linkClose => Sys2Proof.Machine.execLinkClose s
  | .castS16 x => Sys2Proof.Machine.execCastS16 x s
  | .castU16 x => Sys2Proof.Machine.execCastU16 x s
  | .gS2C a1 r => Sys2Proof.Machine.execGS2C a1 r s
  | .gC2S code r => Sys2Proof.Machine.execGC2S code r s
  | .gI2C a0 => Sys2Proof.Machine.execGI2C a0 s
  | .gC2I code => Sys2Proof.Machine.execGC2I code s
  | .gTable n ci cs bi bs => Sys2Proof.Machine.execGTable n ci cs bi bs s
  | .cfgFromUser k a c blind => Sys2Proof.Machine.execCfgFromUser k a c blind s
  | .cfgFromRegs k l => Sys2Proof.Machine.execCfgFromRegs k l s
  | .cfgToRegs k => Sys2Proof.Machine.execCfgToRegs k s
  | .cfgToUser k c => Sys2Proof.Machine.execCfgToUser k c s
  | .cfgBlockDur k => Sys2Proof.Machine.execCfgBlockDur k s
  | .cfgEq k t => Sys2Proof.Machine.execCfgEq k t s
  | .tsEnc sec ms => Sys2Proof.Machine.execTsEnc sec ms s
  | .tsDec w0 w1 w2 => Sys2Proof.Machine.execTsDec w0 w1 w2 s
  | .profDec pb k => Sys2Proof.Machine.execProfDec pb k s
  | .rdreq addr count => Sys2Proof.Machine.execRdreq addr count s
  | .rdrsp slave payload crc => Sys2Proof.Machine.execRdrsp slave payload crc s
  | .wrreq addr v => Sys2Proof.Machine.execWrreq addr v s
  | .wrack slave addr count crc => Sys2Proof.Machine.execWrack slave addr count crc s
  | .wrerr slave errFunc payload => Sys2Proof.Machine.execWrerr slave errFunc payload s
  | .wrCfg k a => Sys2Proof.Machine.execWrCfg k a s
  | .rdCfg k a => Sys2Proof.Machine.execRdCfg k a s
  | .rdProf k a => Sys2Proof.Machine.execRdProf k a s

end Sys2Proof.Machine
end

