-- ==== Sys2Proof/WellFormed.lean ====
section
/-! DEFINITION. What the spec says of an instruction's operands beyond their types: the lengths and ranges that its
interface can carry (spec/30_encoding.md R92 to R96, R99, R102; spec/10_state.md R35). -/

namespace Sys2Proof

/-- `addr + n ≤ 65536` (41_transport.md R163 b). -/
abbrev addrFits (addr : Word) (n : Nat) : Prop := addr.toNat + n ≤ 65536

/-- The operand ranges of each instruction, as a check. Requests the engine must be able to refuse (an oversized
count, a list of the wrong length, a slot past the last) are well-formed: 30_encoding.md R102. -/
def Instr.wellFormed : Instr → Bool
  | .wrW _ v _ | .wrBuf _ v _ => decide (v.length ≤ 65535)
  | .cfgFromRegs _ l => decide (l.length ≤ 65535)
  | .profDec pb _ => decide (pb.length ≤ 2 * (profileHeadWords + 4 * 32767))
  | .rdreq addr count => decide (1 ≤ count.toNat ∧ count.toNat ≤ maxRd ∧ addrFits addr count.toNat)
  | .rdrsp _ payload _ => decide (payload.length ≤ 255)
  | .wrreq addr v => decide (1 ≤ v.length ∧ v.length ≤ maxWr ∧ addrFits addr v.length)
  | .wrerr _ errFunc payload => decide (errFunc ≠ fcWrite ∧ payload.length ≤ 255)
  | .crcCompute _ | .crcInit | .crcUpdate _ | .crcRead | .crcCheck _ => true
  | .rdW _ _ _ | .rdBuf _ _ _ | .csrRd _ | .csrWr _ _ | .linkOpen | .linkClose => true
  | .castS16 _ | .castU16 _ | .gS2C _ _ | .gC2S _ _ | .gI2C _ | .gC2I _ | .gTable _ _ _ _ _ => true
  | .cfgFromUser _ _ _ _ | .cfgToRegs _ | .cfgToUser _ _ | .cfgBlockDur _ | .cfgEq _ _ => true
  | .tsEnc _ _ | .tsDec _ _ _ | .wrack _ _ _ _ | .wrCfg _ _ | .rdCfg _ _ | .rdProf _ _ => true

/-- The instruction's operands are in the ranges its interface carries. -/
abbrev Instr.WellFormed (i : Instr) : Prop := i.wellFormed = true

end Sys2Proof
end

