-- ==== Sys2Proof/Decode.lean ====
section
/-! DEFINITION. The decoder, total on any bytes and rejecting by name, and the encoder.

A command is its OP byte (spec/30_encoding.md R100) and its operand record. The spec gives the record no binary form
(D2); the serial form below is the model's own. DESIGN CHOICE (entry 2), unsafe only for claims about operand bytes:
words are big-endian; a natural number is a base-128 string, least significant digit first, the top bit of a byte
saying that another follows; an integer is twice its value or minus twice its value minus one; a rational is its
numerator and its denominator minus one; a list is its length and its elements; an absent option is a zero byte.
Frames are the byte strings of R92 to R96. A pseudo-operation has no encoding of its own (R104); a tag byte names it. -/

namespace Sys2Proof

open Machine

/-- Why a packet is no instruction. -/
inductive DecodeError where
  /-- the packet holds no byte -/
  | empty
  /-- an OP code outside the table (30_encoding.md R101) -/
  | badOp (op : Byte)
  /-- an operand record of the wrong shape (30_encoding.md R101) -/
  | badOperands (op : Byte)
  /-- no pseudo-operation of 30_encoding.md R104 -/
  | badPseudo
  /-- no request frame that UVPC sends (30_encoding.md R92, R94, R99) -/
  | badRequest
  /-- no response frame of the expected format (30_encoding.md R93, R95, R96) -/
  | badReply
  deriving DecidableEq, Repr

/-- A reader of operands: a value and the bytes left, or nothing. -/
abbrev Reader (α : Type) := StateT (List Byte) Option α

/-- One byte. -/
def readByte : Reader Byte
  | [] => none
  | b :: bs => some (b, bs)

/-- A big-endian word. -/
def readWord : Reader Word
  | hi :: lo :: bs => some (ofOctets hi lo, bs)
  | _ => none

/-- A base-128 natural number. -/
def readNat : Reader Nat
  | [] => none
  | b :: bs =>
    if b.toNat < 128 then some (b.toNat, bs)
    else match readNat bs with
      | some (n, r) => some (b.toNat - 128 + 128 * n, r)
      | none => none

/-- A natural number below `2 ^ w`, as a pattern of `w` bits. -/
def readBits (w : Nat) : Reader (BitVec w) := fun bs =>
  match readNat bs with
  | some (n, r) => if n < 2 ^ w then some (BitVec.ofNat w n, r) else none
  | none => none

/-- The integer a natural number stands for: even for `n / 2`, odd for `-(n + 1) / 2`. -/
def unzigzag (n : Nat) : Int := if n % 2 = 0 then (n / 2 : Nat) else -((n / 2 : Nat) : Int) - 1

/-- An integer. -/
def readInt : Reader Int := do return unzigzag (← readNat)

/-- A rational: numerator, then denominator minus one. -/
def readRat : Reader Rat := do
  let n ← readInt
  let d ← readNat
  return mkRat n (d + 1)

/-- A boolean: a zero byte is false. -/
def readBool : Reader Bool := do return (← readByte) != 0

/-- `n` values one after the other. -/
def readMany {α : Type} (p : Reader α) : Nat → Reader (List α)
  | 0 => pure []
  | n + 1 => do
    let x ← p
    let xs ← readMany p n
    return x :: xs

/-- A list: its length, then its elements. -/
def readList {α : Type} (p : Reader α) : Reader (List α) := do readMany p (← readNat)

/-- An optional value: a zero byte is none. -/
def readOption {α : Type} (p : Reader α) : Reader (Option α) := do
  if (← readBool) then return some (← p) else return none

/-- The AcousticConfig record, its fields in the order of 30_encoding.md R125. -/
def readAcoustic : Reader AcousticConfig := do
  let f0 ← readRat
  let prf ← readRat
  let nEch ← readInt
  let rEm ← readRat
  let rVol1 ← readRat
  let rDvol ← readRat
  let nVol ← readInt
  let gainA0 ← readRat
  let gainA1 ← readRat
  let gainAuto ← readBool
  let staticEchoFilter ← readBool
  let phaseCoding ← readBool
  let burstMode ← readBool
  let nAvg ← readInt
  let vMin ← readRat
  return ⟨f0, prf, nEch, rEm, rVol1, rDvol, nVol, gainA0, gainA1, gainAuto, staticEchoFilter, phaseCoding, burstMode,
    nAvg, vMin⟩

/-- The blind limits, intercept then slope. -/
def readBlind : Reader BlindLimits := do
  let a0 ← readRat
  let a1 ← readRat
  return ⟨a0, a1⟩

/-- The operand reader of each assigned OP code (30_encoding.md R100); none for the 227 unassigned ones. -/
def operandReader (op : Nat) : Option (Reader Instr) :=
  match op with
  | 0x00 => some do return .crcCompute (← readList readByte)
  | 0x01 => some (pure .crcInit)
  | 0x02 => some do return .crcUpdate (← readByte)
  | 0x03 => some (pure .crcRead)
  | 0x04 => some do return .crcCheck (← readList readByte)
  | 0x10 => some do
      let addr ← readWord
      let count ← readWord
      return .rdW addr count (← readOption readRat)
  | 0x11 => some do
      let addr ← readWord
      let v ← readList readWord
      return .wrW addr v (← readOption readRat)
  | 0x12 => some do
      let addr ← readWord
      let total ← readBits 17
      return .rdBuf addr total (← readOption readRat)
  | 0x13 => some do
      let addr ← readWord
      let v ← readList readWord
      return .wrBuf addr v (← readOption readRat)
  | 0x1C => some do return .csrRd (← readByte)
  | 0x1D => some do
      let r ← readByte
      return .csrWr r (← readRat)
  | 0x1E => some (pure .linkOpen)
  | 0x1F => some (pure .linkClose)
  | 0x20 => some do return .castS16 (← readRat)
  | 0x21 => some do return .castU16 (← readRat)
  | 0x30 => some do
      let a1 ← readRat
      return .gS2C a1 (← readRat)
  | 0x31 => some do
      let code ← readRat
      return .gC2S code (← readRat)
  | 0x32 => some do return .gI2C (← readRat)
  | 0x33 => some do return .gC2I (← readRat)
  | 0x34 => some do
      let n ← readBits 15
      let ci ← readRat
      let cs ← readRat
      let bi ← readRat
      return .gTable n ci cs bi (← readRat)
  | 0x40 => some do
      let s ← readNat
      let a ← readAcoustic
      let c ← readRat
      return .cfgFromUser s a c (← readOption readBlind)
  | 0x41 => some do
      let s ← readNat
      return .cfgFromRegs s (← readList readWord)
  | 0x42 => some do return .cfgToRegs (← readNat)
  | 0x43 => some do
      let s ← readNat
      return .cfgToUser s (← readRat)
  | 0x44 => some do return .cfgBlockDur (← readNat)
  | 0x45 => some do
      let s ← readNat
      return .cfgEq s (← readNat)
  | 0x50 => some do
      let sec ← readInt
      return .tsEnc sec (← readInt)
  | 0x51 => some do
      let w0 ← readWord
      let w1 ← readWord
      return .tsDec w0 w1 (← readWord)
  | 0x60 => some do
      let pb ← readList readByte
      return .profDec pb (← readNat)
  | _ => none

/-- A command: the OP byte, then its operands; bytes past the operand record are not read. -/
def decodeCommand : List Byte → Except DecodeError Instr
  | [] => .error .empty
  | op :: bs =>
    match operandReader op.toNat with
    | none => .error (.badOp op)
    | some p =>
      match p bs with
      | none => .error (.badOperands op)
      | some (i, _) => .ok i

/-- A slot index and a device address, the operands of a pseudo-operation. -/
def readSlotAddr : Reader (Nat × Word) := do
  let s ← readNat
  let a ← readWord
  return (s, a)

/-- A pseudo-operation: the model's tag byte, then slot and address. -/
def decodePseudo : List Byte → Except DecodeError Instr
  | [] => .error .empty
  | tag :: bs =>
    match readSlotAddr bs with
    | none => .error .badPseudo
    | some ((s, a), _) =>
      if tag = 0 then .ok (.wrCfg s a)
      else if tag = 1 then .ok (.rdCfg s a)
      else if tag = 2 then .ok (.rdProf s a)
      else .error .badPseudo

/-- A request frame UVPC sends: read or write by its function byte, with counts, ranges and seal as R92, R94, R99. -/
def decodeRequest (slave : Byte) (bytes : List Byte) : Except DecodeError Instr :=
  match bytes with
  | _ :: _ :: aHi :: aLo :: nHi :: nLo :: rest =>
    let addr := ofOctets aHi aLo
    let count := ofOctets nHi nLo
    let rd := Instr.rdreq addr count
    let wr := Instr.wrreq addr (bytesToWords (rest.drop 1 |>.take (2 * count.toNat)))
    if rd.wellFormed && bytes == readRequest slave addr count then .ok rd
    else if wr.wellFormed &&
        bytes == writeRequest slave addr (bytesToWords (rest.drop 1 |>.take (2 * count.toNat))) then .ok wr
    else .error .badRequest
  | _ => .error .badRequest

/-- A read response in the accepted format (30_encoding.md R93): function 0x03 and exactly `byteCount + 2` more bytes. -/
def decodeReadReply (bytes : List Byte) : Except DecodeError Instr :=
  match bytes with
  | slave :: fn :: bc :: rest =>
    match rest.drop bc.toNat with
    | [lo, hi] => if fn = fcRead then .ok (.rdrsp slave (rest.take bc.toNat) (ofOctets hi lo)) else .error .badReply
    | _ => .error .badReply
  | _ => .error .badReply

/-- A write response: function 0x10 selects the success format of 8 bytes, any other the failure format
(30_encoding.md R95, R96). -/
def decodeWriteReply (bytes : List Byte) : Except DecodeError Instr :=
  match bytes with
  | slave :: fn :: rest =>
    if fn = fcWrite then
      match rest with
      | [aHi, aLo, nHi, nLo, lo, hi] => .ok (.wrack slave (ofOctets aHi aLo) (ofOctets nHi nLo) (ofOctets hi lo))
      | _ => .error .badReply
    else
      match rest with
      | len :: payload => if payload.length = len.toNat then .ok (.wrerr slave fn payload) else .error .badReply
      | [] => .error .badReply
  | _ => .error .badReply

/-- The instruction a packet holds; `slave` is the parameter `SLAVE_ADDR`, which a request frame must carry. -/
def decode (slave : Byte) (p : Packet) : Except DecodeError Instr :=
  match p.chan with
  | .command => decodeCommand p.bytes
  | .pseudo => decodePseudo p.bytes
  | .request => decodeRequest slave p.bytes
  | .readReply => decodeReadReply p.bytes
  | .writeReply => decodeWriteReply p.bytes

/-! ### The encoder -/

/-- The base-128 digits of `n`, with `fuel` a bound on their number. -/
def natBytesFuel : Nat → Nat → List Byte
  | 0, n => [BitVec.ofNat 8 (n % 128)]
  | fuel + 1, n =>
    if n < 128 then [BitVec.ofNat 8 n] else BitVec.ofNat 8 (n % 128 + 128) :: natBytesFuel fuel (n / 128)

/-- A natural number; the number itself is fuel enough. -/
def natBytes (n : Nat) : List Byte := natBytesFuel n n

/-- The natural number that stands for an integer. -/
def zigzag (z : Int) : Nat := if 0 ≤ z then 2 * z.toNat else 2 * (-z - 1).toNat + 1

/-- An integer. -/
def intBytes (z : Int) : List Byte := natBytes (zigzag z)

/-- A rational. -/
def ratBytes (q : Rat) : List Byte := intBytes q.num ++ natBytes (q.den - 1)

/-- A boolean. -/
def boolBytes (b : Bool) : List Byte := [if b then 1 else 0]

/-- A byte string with its length. -/
def byteListBytes (d : List Byte) : List Byte := natBytes d.length ++ d

/-- A list of words with its length. -/
def wordListBytes (v : List Word) : List Byte := natBytes v.length ++ wordsToBytes v

/-- An optional bound. -/
def tmoBytes : Option Rat → List Byte
  | none => [0]
  | some q => 1 :: ratBytes q

/-- Optional blind limits. -/
def blindBytes : Option BlindLimits → List Byte
  | none => [0]
  | some b => 1 :: (ratBytes b.a0Max ++ ratBytes b.a1Max)

/-- The AcousticConfig record. -/
def acousticBytes (a : AcousticConfig) : List Byte :=
  ratBytes a.f0 ++ ratBytes a.prf ++ intBytes a.nEch ++ ratBytes a.rEm ++ ratBytes a.rVol1 ++ ratBytes a.rDvol ++
    intBytes a.nVol ++ ratBytes a.gainA0 ++ ratBytes a.gainA1 ++ boolBytes a.gainAuto ++ boolBytes a.staticEchoFilter ++
    boolBytes a.phaseCoding ++ boolBytes a.burstMode ++ intBytes a.nAvg ++ ratBytes a.vMin

/-- A command packet. -/
def commandPacket (op : Byte) (operands : List Byte) : Packet := ⟨.command, op :: operands⟩

/-- The packet of an instruction: its channel and its bytes. -/
def encode (slave : Byte) : Instr → Packet
  | .crcCompute d => commandPacket 0x00 (byteListBytes d)
  | .crcInit => commandPacket 0x01 []
  | .crcUpdate b => commandPacket 0x02 [b]
  | .crcRead => commandPacket 0x03 []
  | .crcCheck f => commandPacket 0x04 (byteListBytes f)
  | .rdW addr count tmo => commandPacket 0x10 (be16 addr ++ be16 count ++ tmoBytes tmo)
  | .wrW addr v tmo => commandPacket 0x11 (be16 addr ++ wordListBytes v ++ tmoBytes tmo)
  | .rdBuf addr total tmo => commandPacket 0x12 (be16 addr ++ natBytes total.toNat ++ tmoBytes tmo)
  | .wrBuf addr v tmo => commandPacket 0x13 (be16 addr ++ wordListBytes v ++ tmoBytes tmo)
  | .csrRd r => commandPacket 0x1C [r]
  | .csrWr r value => commandPacket 0x1D (r :: ratBytes value)
  | .linkOpen => commandPacket 0x1E []
  | .linkClose => commandPacket 0x1F []
  | .castS16 x => commandPacket 0x20 (ratBytes x)
  | .castU16 x => commandPacket 0x21 (ratBytes x)
  | .gS2C a1 r => commandPacket 0x30 (ratBytes a1 ++ ratBytes r)
  | .gC2S code r => commandPacket 0x31 (ratBytes code ++ ratBytes r)
  | .gI2C a0 => commandPacket 0x32 (ratBytes a0)
  | .gC2I code => commandPacket 0x33 (ratBytes code)
  | .gTable n ci cs bi bs =>
      commandPacket 0x34 (natBytes n.toNat ++ ratBytes ci ++ ratBytes cs ++ ratBytes bi ++ ratBytes bs)
  | .cfgFromUser s a c blind => commandPacket 0x40 (natBytes s ++ acousticBytes a ++ ratBytes c ++ blindBytes blind)
  | .cfgFromRegs s l => commandPacket 0x41 (natBytes s ++ wordListBytes l)
  | .cfgToRegs s => commandPacket 0x42 (natBytes s)
  | .cfgToUser s c => commandPacket 0x43 (natBytes s ++ ratBytes c)
  | .cfgBlockDur s => commandPacket 0x44 (natBytes s)
  | .cfgEq s t => commandPacket 0x45 (natBytes s ++ natBytes t)
  | .tsEnc sec ms => commandPacket 0x50 (intBytes sec ++ intBytes ms)
  | .tsDec w0 w1 w2 => commandPacket 0x51 (be16 w0 ++ be16 w1 ++ be16 w2)
  | .profDec pb s => commandPacket 0x60 (byteListBytes pb ++ natBytes s)
  | .rdreq addr count => ⟨.request, readRequest slave addr count⟩
  | .rdrsp sl payload crc => ⟨.readReply, readResponse sl payload crc⟩
  | .wrreq addr v => ⟨.request, writeRequest slave addr v⟩
  | .wrack sl addr count crc => ⟨.writeReply, writeAck sl addr count crc⟩
  | .wrerr sl errFunc payload => ⟨.writeReply, writeError sl errFunc payload⟩
  | .wrCfg s a => ⟨.pseudo, 0 :: (natBytes s ++ be16 a)⟩
  | .rdCfg s a => ⟨.pseudo, 1 :: (natBytes s ++ be16 a)⟩
  | .rdProf s a => ⟨.pseudo, 2 :: (natBytes s ++ be16 a)⟩

/-- The bytes of a number of `n` bytes, least significant byte first. -/
def leBytes : Nat → Nat → List Byte
  | 0, _ => []
  | n + 1, w => BitVec.ofNat 8 w :: leBytes n (w / 256)

/-- Zero bytes enough for the operand record of every command whose operands are all zero. -/
def zeroOperands : List Byte := List.replicate 64 0

/-- The command packet of a table word: the word's bytes, then zero operands. -/
def tablePacket (nbits w : Nat) : Packet := ⟨.command, leBytes ((nbits + 7) / 8) w ++ zeroOperands⟩

/-- The instruction the decoder reads from a table word. -/
def decodeTableWord (nbits w : Nat) : Option Instr :=
  match decode Config.default.slaveAddr (tablePacket nbits w) with
  | .ok i => some i
  | .error _ => none

end Sys2Proof
end

