-- ==== Sys2Proof/Machine/Presentation.lean ====
section
/-! DEFINITION. How the engine takes what is presented to it: when a command waits, what an unassigned OP code does,
and what becomes of a packet that is no instruction (spec/30_encoding.md R101; spec/41_transport.md R161). -/

namespace Sys2Proof.Machine

/-- Whether a packet comes from the device, which may act while `BUSY = 1`. -/
def Packet.fromDevice (p : Packet) : Bool :=
  match p.chan with
  | .readReply | .writeReply => true
  | .command | .pseudo | .request => false

/-- `BAD_OP` (30_encoding.md R101): nothing but the raise. -/
def execBadOp (op : Byte) (s : State) : State := s.raise .badOp op.toNat 0

/-- A packet that is no instruction. An unassigned OP raises `BAD_OP`; bytes of the device in no response format are
still bytes on the line (10_state.md R21 b); an operand record of the wrong shape is refused. -/
def execUndecodable (p : Packet) (e : DecodeError) (s : State) : Host.Outcome State Fault Refusal :=
  if Packet.fromDevice p then .next (s.deliver p.bytes)
  else match e with
    | .badOp op => .next (execBadOp op s)
    | .badRequest => .refused .notARequest
    | .empty | .badOperands _ | .badPseudo | .badReply => .refused .malformedPacket

/-- The engine's own move, when nothing is presented or a command must wait: it completes the open transaction; idle,
it waits (10_state.md R27). -/
def engineMove (s : State) : Host.Outcome State Fault Refusal :=
  match s.pend with
  | some p => .next (s.completePending p)
  | none => if s.busy then .fault .engineStuck else .next s

/-- The packet of a table word, placed as the next thing presented to an engine that takes it. -/
def placeNext (s : State) (p : Packet) : State :=
  { s with inbox := .packet p :: s.inbox, busy := false, seq := .idle, pend := none }

end Sys2Proof.Machine
end

