-- ==== Sys2Proof/Machine/Step.lean ====
section
/-! DEFINITION. One step: the next event is taken (a command only while `BUSY = 0`, spec/41_transport.md R161), or the
engine moves by itself. -/

namespace Sys2Proof.Machine

/-- A packet presented to a state from which it has been taken. -/
def takePacket (p : Packet) (s : State) : Host.Outcome State Fault Refusal :=
  match decode s.cfg.slaveAddr p with
  | .ok i => exec i s
  | .error e => execUndecodable p e s

/-- One step of the machine. The reset event is taken between two steps, never in the middle of an operation that one
step runs; it may come while a transaction is open (DESIGN CHOICE, entry 25). -/
def step (s : State) : Host.Outcome State Fault Refusal :=
  match s.inbox with
  | [] => engineMove s
  | .reset :: rest => .next { s with inbox := rest }.afterReset
  | .packet p :: rest =>
    if s.busy && !Packet.fromDevice p then engineMove s else takePacket p { s with inbox := rest }

/-- `s` with the instruction of a table word as the next thing presented, the engine idle. -/
def State.withFetchWord (s : State) (nbits w : Nat) : State := placeNext s (tablePacket nbits w)

end Sys2Proof.Machine
end

