-- ==== Sys2Proof/Safety.lean ====
section
/-! DEFINITION. What a safe state and a safe step are: the invariant every step keeps and the absence of a stop; and
the terms the statements speak in: runs of instructions, the bytes a stream carries, what a device answers. -/

namespace Sys2Proof.Machine

/-! ### The invariant -/

/-- The sequencer agrees with `BUSY` (spec/10_state.md R27), and `BUSY = 1` exactly while a transaction is open. -/
abbrev State.SequencerOk (s : State) : Prop :=
  (s.seq = .idle ↔ s.busy = false) ∧ (s.pend.isSome = true ↔ s.busy = true)

/-- The stores are canonical and inside their index ranges (spec/10_state.md R29, R30). -/
abbrev State.StoresOk (s : State) : Prop :=
  cellsWf s.rdb = true ∧ cellsWf s.errbuf = true ∧ (∀ c ∈ s.rdb, c.1 < 65536) ∧ (∀ c ∈ s.errbuf, c.1 < 255)

/-- Fixed lengths and ranges: `RL` has 17 words, `RDCNT` is at most 65536 (spec/10_state.md R26, R32); `RXACC` is
cleared when a transaction starts and holds 258 bytes at most (R28). -/
abbrev State.RangesOk (s : State) : Prop :=
  s.rl.length = cfgWords ∧ s.rdcnt.toNat ≤ 65536 ∧ s.rxacc.length ≤ rxaccBytes ∧ (s.pend.isSome = true → s.rxacc = [])

/-- `STATUS` holds 0 or the code of a cause, whose kind `FSTICKY` has recorded (spec/60_exceptions.md R312, R313). -/
abbrev State.StatusOk (s : State) : Prop :=
  s.status = 0 ∨ ∃ c : Cause, s.status = c.status ∧ s.fsticky &&& c.kind.stickyBit = c.kind.stickyBit

/-- The invariant of the machine. -/
abbrev State.Inv (s : State) : Prop := s.SequencerOk ∧ s.StoresOk ∧ s.RangesOk ∧ s.StatusOk

/-- The step does not stop in a fault of the model. -/
abbrev State.StepsSafely (s : State) : Prop := ∀ r, step s ≠ .fault r

/-! ### Runs of instructions -/

/-- Instructions run one after the other; a stop ends the run. -/
def execAll : List Instr → State → Host.Outcome State Fault Refusal
  | [], s => .next s
  | i :: is, s =>
    match exec i s with
    | .next t => execAll is t
    | .fault r => .fault r
    | .refused r => .refused r

/-- The bytes that the CRC.UPDATE operations of a run feed, in order. -/
def updateBytes : List Instr → List Byte
  | [] => []
  | .crcUpdate b :: is => b :: updateBytes is
  | _ :: is => updateBytes is

/-- The operations that write a configuration register file, and the slot (spec/10_state.md R25); RD.CFG ends in one. -/
def loadsSlot : Instr → Option Nat
  | .cfgFromUser i _ _ _ | .cfgFromRegs i _ | .rdCfg i _ => some i
  | _ => none

/-! ### Streams -/

/-- The bytes a list of receive answers carries. -/
def streamBytes : List RxStep → List Byte
  | [] => []
  | e :: es =>
    match e.answer with
    | .data bs => bs ++ streamBytes es
    | .none | .closed => streamBytes es

/-- The answers carry exactly these bytes, in any cutting, with any waits between them, all within the bound. -/
abbrev Arrives (es : List RxStep) (bytes : List Byte) : Prop :=
  (∀ e ∈ es, e.answer ≠ .closed ∧ e.expired = false) ∧ streamBytes es = bytes

/-- The answers carry exactly these bytes and then break off: the stream is closed, or it stays silent until the bound has
passed. -/
abbrev BreaksOff (es : List RxStep) (bytes : List Byte) (closed : Bool) : Prop :=
  ∃ pre e, es = pre ++ [e] ∧ Arrives pre bytes ∧
    (if closed then e.answer = .closed else e.answer = .none ∧ e.expired = true)

/-- The cause a low-level read raises that got too few bytes (spec/41_transport.md R165). -/
def shortCause (closed : Bool) (got : Nat) : Cause :=
  if closed then .streamClosed else if got = 0 then .noResponse else .shortResponse

/-- The operand checks and the link precondition of a transport operation on `n` words at `addr` (spec/41_transport.md
R162, R163), and the answer of `Tx` to its frame. -/
abbrev State.Ready (s : State) (addr : Word) (n limit : Nat) : Prop :=
  (1 ≤ n ∧ n ≤ limit) ∧ addr.toNat + n ≤ 65536 ∧ s.link = true ∧ s.txAnswer = .ok

/-- The slave byte of a response passes (spec/41_transport.md R175). -/
abbrev State.AcceptsSlave (s : State) (slave : Byte) : Prop := s.cfg.checkSlave = false ∨ slave = s.cfg.slaveAddr

/-- The state once a transport operation has sent its one request frame and the bytes `got` of the response have been
consumed from the receive stream, whose rest is `left`; `RXACC` keeps at most its capacity of them, the first ones
(DESIGN CHOICE, entry 17). -/
def State.exchanged (s : State) (frame got : List Byte) (left : List RxStep) : State :=
  { s.txDrawn with
    sent := s.sent ++ frame
    segcnt := 1
    rxacc := accumulate [] got
    env := { s.txDrawn.env with rx := left } }

/-- A transport operation that ended normally (spec/41_transport.md R170, R180). -/
def State.finished (s : State) : State := { s with status := 0, busy := false, seq := .idle, pend := none }

/-- Registers of the other units, the link registers that no transaction writes, and what is yet to be presented. -/
structure State.SameOutsideTransport (s t : State) : Prop where
  cfg : t.cfg = s.cfg
  crcr : t.crcr = s.crcr
  hc : t.hc = s.hc
  tmo : t.tmo = s.tmo
  link : t.link = s.link
  gt : t.gt = s.gt
  ucr : t.ucr = s.ucr
  bdur : t.bdur = s.bdur
  rl : t.rl = s.rl
  eqf : t.eqf = s.eqf
  tsw : t.tsw0 = s.tsw0 ∧ t.tsw1 = s.tsw1 ∧ t.tsw2 = s.tsw2
  tssec : t.tssec = s.tssec
  tsms : t.tsms = s.tsms
  scr : t.scr = s.scr
  pr : t.pr = s.pr ∧ t.prv = s.prv
  inbox : t.inbox = s.inbox

/-! ### A device that answers -/

/-- A read response with words `w` and a matching CRC (spec/30_encoding.md R93). -/
def readReply (slave : Byte) (w : List Word) : List Byte :=
  sealFrame ([slave, fcRead, BitVec.ofNat 8 (2 * w.length)] ++ wordsToBytes w)

/-- An acknowledgement with a matching CRC (spec/30_encoding.md R95). -/
def ackReply (slave : Byte) (addr count : Word) : List Byte := sealFrame ([slave, fcWrite] ++ be16 addr ++ be16 count)

/-- Words `addr` to `addr + n - 1` of a device register space. -/
def deviceWords (dev : Nat → Word) (addr n : Nat) : List Word := (List.range n).map fun k => dev (addr + k)

/-- The segments of RD.BUF: start address and word count of each (spec/41_transport.md R190, R191). -/
def segments (addr : Nat) : Nat → Nat → List (Nat × Nat)
  | 0, _ => []
  | fuel + 1, rem =>
    if rem = 0 then [] else (addr, min rem 125) :: segments (addr + min rem 125) fuel (rem - min rem 125)

/-- The request frames of RD.BUF, one after the other. -/
def segmentRequests (slave : Byte) (addr total : Nat) : List Byte :=
  (segments addr total total).flatMap fun p => readRequest slave (BitVec.ofNat 16 p.1) (BitVec.ofNat 16 p.2)

/-- What a device with contents `dev` answers to them. -/
def segmentReplies (slave : Byte) (dev : Nat → Word) (addr total : Nat) : List Byte :=
  (segments addr total total).flatMap fun p => readReply slave (deviceWords dev p.1 p.2)

/-- One bit of a byte string flipped. -/
def flipBit (d : List Byte) (i k : Nat) : List Byte := d.set i (byteAt d i ^^^ (1#8 <<< k))

end Sys2Proof.Machine
end

