-- ==== Sys2Proof/Certificates/Slice0/Obligations.lean ====
section
/-! DEFINITION. The statements for the provers, each with the rule of spec/ it formalises. A statement that fixes
`cfg.num = .exact` speaks of the number domain the spec's formulas are written in (spec/00_scope.md R16); under
`binary64` the spec gives no rounding and every result is a free value within a tolerance (log entry 12). -/

section Statements

open Sys2Proof Sys2Proof.Machine

/-! ### Reset and the fault entry -/

/-- 10_state.md R45: every value the table gives. -/
def Obligations.ResetState : Prop :=
  let s := State.reset
  s.crcr = 0xFFFF ∧ (∀ sl ∈ s.hc, sl.valid = false) ∧ csrValue 0x00 s = some (s.cfg.slaveAddr.toNat : Rat) ∧
    csrValue 0x01 s = some 125 ∧ csrValue 0x02 s = some 123 ∧ csrValue 0x10 s = some s.cfg.fSys ∧
    s.tmo = s.cfg.tmoDefault ∧ s.link = false ∧ s.busy = false ∧ s.seq = .idle ∧ s.cur = 0 ∧ s.rem = 0 ∧ s.status = 0 ∧
    s.fsticky = 0 ∧ s.info0 = 0 ∧ s.info1 = 0 ∧ s.errfunc = 0 ∧ s.errlen = 0 ∧ s.echoaddr = 0 ∧ s.echocnt = 0 ∧
    s.rdcnt = 0 ∧ s.segcnt = 0 ∧ s.rxacc = [] ∧ s.gtn = 0 ∧ s.prv = false

/-- 70_reset_and_hazards.md R340: the reset event, in any state; what it does not touch (R341). -/
def Obligations.ResetEvent : Prop :=
  ∀ (s : State) (rest : List Event), s.inbox = .reset :: rest → ∃ t, step s = .next t ∧
    t.crcr = 0xFFFF ∧ t.nSlots = s.nSlots ∧ (∀ sl ∈ t.hc, sl.valid = false) ∧ t.cfg = s.cfg ∧
    t.tmo = s.cfg.tmoDefault ∧ t.link = false ∧ t.busy = false ∧ t.seq = .idle ∧ t.cur = 0 ∧ t.rem = 0 ∧ t.status = 0 ∧
    t.fsticky = 0 ∧ t.info0 = 0 ∧ t.info1 = 0 ∧ t.errfunc = 0 ∧ t.errlen = 0 ∧ t.echoaddr = 0 ∧ t.echocnt = 0 ∧
    t.rdcnt = 0 ∧ t.segcnt = 0 ∧ t.rxacc = [] ∧ t.gtn = 0 ∧ t.prv = false ∧ t.pend = none ∧ t.inbox = rest ∧
    t.env = s.env ∧ t.sent = s.sent

/-- 60_exceptions.md R311 and the codes of R312: what raising a cause writes, and nothing else. -/
def Obligations.FaultEntry : Prop :=
  (∀ (s : State) (c : Cause) (i0 i1 : Int), s.raise c i0 i1 =
    { s with
      status := (BitVec.ofNat 8 c.kind.number <<< 5) ||| BitVec.ofNat 8 c.number
      info0 := BitVec.ofInt 32 i0
      info1 := BitVec.ofInt 32 i1
      fsticky := s.fsticky ||| BitVec.ofNat 4 (2 ^ (c.kind.number - 1))
      busy := false
      seq := .idle
      pend := none }) ∧
  [Cause.linkNotOpen, .writeFail, .streamClosed, .openFail].map Cause.status = [0x21, 0x22, 0x23, 0x24] ∧
  [Cause.noResponse, .shortResponse, .crcMismatch, .wrongFunction, .badByteCount, .writeNak, .wrongSlave].map
    Cause.status = [0x41, 0x42, 0x43, 0x44, 0x45, 0x46, 0x47] ∧
  [Cause.cfgLength, .profileSize, .shortFrame].map Cause.status = [0x61, 0x62, 0x63] ∧
  [Cause.badOp, .countRange, .addrRange, .hcNotLoaded, .divZero, .tsRange, .badSlot, .badCsr].map Cause.status =
    [0x81, 0x82, 0x83, 0x84, 0x85, 0x86, 0x87, 0x88]

/-! ### Presentation, decoding -/

/-- A step runs the instruction that the next packet decodes to, the packet taken from what is presented
(41_transport.md R161, 30_encoding.md R100; the inbox is the model's, log entries 1 and 2). While `BUSY = 1` a packet of
the host waits: the step completes the open transaction, and the packet is still presented (10_state.md R27,
20_memory.md R79, 70_reset_and_hazards.md R351; the moves are the model's, log entries 5 and 6). With nothing presented
an open transaction is completed, and an idle engine stays as it is. -/
def Obligations.StepRunsDecoded : Prop :=
  (∀ (s : State) (p : Packet) (rest : List Event) (i : Instr), s.inbox = .packet p :: rest →
    (s.busy = false ∨ Packet.fromDevice p = true) → decode s.cfg.slaveAddr p = .ok i →
    step s = exec i { s with inbox := rest }) ∧
  (∀ (s : State) (p : Packet) (rest : List Event) (q : Pending), s.inbox = .packet p :: rest → s.busy = true →
    Packet.fromDevice p = false → s.pend = some q →
    step s = .next (s.completePending q) ∧ (s.completePending q).inbox = s.inbox ∧
      (s.completePending q).busy = false) ∧
  (∀ (s : State) (q : Pending), s.inbox = [] → s.pend = some q → step s = .next (s.completePending q)) ∧
  ∀ s : State, s.inbox = [] → s.busy = false → s.pend = none → step s = .next s

/-- 30_encoding.md R101: an unassigned OP code, in an engine that takes commands. -/
def Obligations.UnassignedOpRefused : Prop :=
  ∀ (s : State) (op : Byte) (bs : List Byte) (rest : List Event),
    s.inbox = .packet ⟨.command, op :: bs⟩ :: rest → s.busy = false → s.seq = .idle → s.pend = none →
    op.toNat ∉ [0x00, 0x01, 0x02, 0x03, 0x04, 0x10, 0x11, 0x12, 0x13, 0x1C, 0x1D, 0x1E, 0x1F, 0x20, 0x21, 0x30, 0x31,
      0x32, 0x33, 0x34, 0x40, 0x41, 0x42, 0x43, 0x44, 0x45, 0x50, 0x51, 0x60] →
    step s = .next { s with
      inbox := rest, status := 0x81, info0 := op.setWidth 32, info1 := 0, fsticky := s.fsticky ||| 8#4 }

/-- A few packets written out by hand: the frames of the examples of 30_encoding.md R92 to R95, and three commands in
the model's serial form of their operands (log entry 2). -/
def Obligations.HandWrittenPackets : Prop :=
  decode 0x04 ⟨.request, [0x04, 0x03, 0x00, 0x00, 0x00, 0x01, 0x84, 0x5F]⟩ = .ok (.rdreq 0 1) ∧
  decode 0x04 ⟨.readReply, [0x04, 0x03, 0x02, 0x12, 0x34, 0x79, 0x33]⟩ = .ok (.rdrsp 0x04 [0x12, 0x34] 0x3379) ∧
  decode 0x04 ⟨.request, [0x04, 0x10, 0xFF, 0xFD, 0x00, 0x01, 0x02, 0x00, 0x02, 0x02, 0x23]⟩ =
    .ok (.wrreq 0xFFFD [2]) ∧
  decode 0x04 ⟨.writeReply, [0x04, 0x10, 0xFF, 0xFD, 0x00, 0x01, 0xA0, 0x78]⟩ = .ok (.wrack 0x04 0xFFFD 1 0x78A0) ∧
  decode 0x04 ⟨.command, [0x02, 0x31]⟩ = .ok (.crcUpdate 0x31) ∧
  decode 0x04 ⟨.command, [0x11, 0xFF, 0xFD, 0x01, 0x00, 0x02, 0x00]⟩ = .ok (.wrW 0xFFFD [2] none) ∧
  decode 0x04 ⟨.command, [0x51, 0x25, 0x9E, 0x4E, 0xC0, 0x01, 0xF4]⟩ = .ok (.tsDec 0x259E 0x4EC0 0x01F4)

/-- Decode and encode agree: every well-formed instruction, every operand, every slave address (frames: 30_encoding.md
R92 to R96; operand records: log entry 2). -/
def Obligations.DecodeEncodeAgree : Prop :=
  ∀ (slave : Byte) (i : Instr), i.WellFormed → decode slave (encode slave i) = .ok i

/-! ### Invariants over all instructions -/

/-- The invariant holds at reset. -/
def Obligations.InvReset : Prop := State.reset.Inv

/-- Every step keeps the invariant: the sequencer is IDLE exactly when BUSY is 0 (10_state.md R27), the stores are
canonical and in range (R29, R30), the lengths and ranges hold (R26, R32), STATUS is 0 or a code of 60_exceptions.md
R312 whose kind FSTICKY records. And no step from such a state ends in a fault of the model (R323: no fault leaves the
engine stuck). -/
def Obligations.InvStep : Prop :=
  ∀ s : State, s.Inv → s.StepsSafely ∧ ∀ t, step s = .next t → t.Inv

/-- FSTICKY only gains bits, except by the reset event (10_state.md R34, 60_exceptions.md R313). -/
def Obligations.StickyOnlyGains : Prop :=
  ∀ s t : State, (∀ rest, s.inbox ≠ .reset :: rest) → step s = .next t → s.fsticky &&& t.fsticky = s.fsticky

/-- The parameters and the number of slots are fixed for the life of the machine (10_state.md R22). -/
def Obligations.ParametersFixed : Prop := ∀ s t : State, step s = .next t → t.cfg = s.cfg ∧ t.nSlots = s.nSlots

/-- LINK is changed only by LINK.OPEN and LINK.CLOSE; no fault changes it (10_state.md R26, 41_transport.md R169). -/
def Obligations.LinkWriters : Prop :=
  ∀ (i : Instr) (s t : State), i ≠ .linkOpen → i ≠ .linkClose → exec i s = .next t → t.link = s.link

/-- CRCR is written only by CRC.INIT and CRC.UPDATE (10_state.md R23). -/
def Obligations.CrcRegisterWriters : Prop :=
  ∀ (i : Instr) (s t : State), i ≠ .crcInit → (∀ b, i ≠ .crcUpdate b) → exec i s = .next t → t.crcr = s.crcr

/-- Writers of `HC[s]`, `HCV[s]`: CFG.FROMUSER and CFG.FROMREGS (RD.CFG ends in the latter); each writes one slot
whole and sets its valid bit; on a fault neither writes any word (10_state.md R25). -/
def Obligations.ConfigWriters : Prop :=
  ∀ (i : Instr) (s t : State), exec i s = .next t →
    t.hc = s.hc ∨ ∃ k h, loadsSlot i = some k ∧ k < s.nSlots ∧ t.hc = s.hc.set k ⟨true, h⟩ ∧ t.status = 0

/-- Nothing but PROF.DEC (RD.PROF ends in one) overwrites `PR` (10_state.md R33), and a fault of it leaves `PR` and
`PRV` as they were (46_profile.md R291). -/
def Obligations.ProfileWriters : Prop :=
  ∀ (i : Instr) (s t : State), exec i s = .next t →
    (t.pr = s.pr ∧ t.prv = s.prv) ∨
    (((∃ pb k, i = .profDec pb k) ∨ ∃ k a, i = .rdProf k a) ∧ t.prv = true ∧ t.status = 0)

/-! ### The CRC engine -/

/-- 40_crc.md R145, R146, R148: CRC.COMPUTE, CRC.INIT and CRC.READ, with the values R145 lists. -/
def Obligations.CrcRegisterOps : Prop :=
  (∀ (s : State) (d : List Byte), exec (.crcCompute d) s =
    .next { s with scr := ((crc16 d).toNat : Rat), status := 0 }) ∧
  (∀ s : State, exec .crcInit s = .next { s with crcr := 0xFFFF, status := 0 }) ∧
  (∀ s : State, exec .crcRead s = .next { s with scr := (s.crcr.toNat : Rat), status := 0 }) ∧
  crc16 [] = 0xFFFF ∧ crc16 [0x00] = 0x40BF ∧ crc16 [0xFF] = 0x00FF ∧
  crc16 [0x31, 0x32, 0x33, 0x34, 0x35, 0x36, 0x37, 0x38, 0x39] = 0x4B37

/-- 40_crc.md R147: CRC.UPDATE is one byte step; CRC.INIT followed by updates, with any other operations in between,
leaves `crc16` of the bytes. -/
def Obligations.CrcStreaming : Prop :=
  (∀ (s : State) (b : Byte), exec (.crcUpdate b) s = .next { s with crcr := crcStep s.crcr b, status := 0 }) ∧
  ∀ (is : List Instr) (s t : State), Instr.crcInit ∉ is → execAll (.crcInit :: is) s = .next t →
    t.crcr = crc16 (updateBytes is)

/-- 40_crc.md R143: the table form agrees with the bit loop on every byte step, hence on every string. -/
def Obligations.CrcTableForm : Prop :=
  (∀ (c : Word) (b : Byte), crcStep c b = (c >>> 8) ^^^ crcTable (lo8 (c ^^^ b.setWidth 16))) ∧
  ∀ (c : Word) (d : List Byte), crcFold c d = d.foldl crcTableStep c

/-- 40_crc.md R149: CRC.CHECK, and its one fault. -/
def Obligations.CrcCheckResult : Prop :=
  (∀ (s : State) (body : List Byte) (lo hi : Byte), exec (.crcCheck (body ++ [lo, hi])) s =
    .next { s with eqf := decide (lo8 (crc16 body) = lo ∧ hi8 (crc16 body) = hi), status := 0 }) ∧
  ∀ (s : State) (f : List Byte), f.length < 2 → exec (.crcCheck f) s = .next (s.raise .shortFrame f.length 0)

/-- 40_crc.md R150: (a) a string with its CRC appended passes; (b) any single bit flipped anywhere, in the string or in
the two CRC bytes, makes validation fail, and a flip in the string changes its CRC. -/
def Obligations.SealPassesFlipFails : Prop :=
  (∀ (s : State) (d : List Byte), exec (.crcCheck (d ++ [lo8 (crc16 d), hi8 (crc16 d)])) s =
    .next { s with eqf := true, status := 0 }) ∧
  (∀ (d : List Byte) (i k : Nat), i < d.length → k < 8 → crc16 (flipBit d i k) ≠ crc16 d) ∧
  ∀ (s : State) (d : List Byte) (i k : Nat), i < d.length + 2 → k < 8 →
    exec (.crcCheck (flipBit (d ++ [lo8 (crc16 d), hi8 (crc16 d)]) i k)) s = .next { s with eqf := false, status := 0 }

/-- 40_crc.md R151: the residue is 0 for every string; with the CRC bytes in the wrong order it is not constant. -/
def Obligations.CrcResidue : Prop :=
  (∀ d : List Byte, crc16 (d ++ [lo8 (crc16 d), hi8 (crc16 d)]) = 0) ∧
  (∃ d d' : List Byte, crc16 (d ++ be16 (crc16 d)) ≠ crc16 (d' ++ be16 (crc16 d'))) ∧
  (let d : List Byte := [0x31, 0x32, 0x33, 0x34, 0x35, 0x36, 0x37, 0x38, 0x39]
   crc16 (d ++ be16 (crc16 d)) = 0x2121)

/-! ### Transport -/

/-- The operand checks in their order, then the link (41_transport.md R162, R163, R200): nothing is sent. What a
refused read leaves in `RDB` is free (log entry 11); `RDCNT` after a refused write is 0 by R163 (log entry 15). -/
def Obligations.TransportRefusals : Prop :=
  ∀ (s : State) (addr count : Word) (total : BitVec 17) (v : List Word) (tmo : Option Rat),
    (¬(1 ≤ count.toNat ∧ count.toNat ≤ 125) → exec (.rdW addr count tmo) s =
      .next (({ s with rdcnt := 0, segcnt := 0 } : State).raise .countRange count.toNat 0).readFailed) ∧
    (1 ≤ count.toNat ∧ count.toNat ≤ 125 → 65536 < addr.toNat + count.toNat → exec (.rdW addr count tmo) s =
      .next (({ s with rdcnt := 0, segcnt := 0 } : State).raise .addrRange addr.toNat count.toNat).readFailed) ∧
    (1 ≤ count.toNat ∧ count.toNat ≤ 125 → addr.toNat + count.toNat ≤ 65536 → s.link = false →
      exec (.rdW addr count tmo) s =
        .next (({ s with rdcnt := 0, segcnt := 0 } : State).raise .linkNotOpen 0 0).readFailed) ∧
    (65536 < addr.toNat + total.toNat → exec (.rdBuf addr total tmo) s =
      .next (({ s with rdcnt := 0, segcnt := 0 } : State).raise .addrRange addr.toNat total.toNat).readFailed) ∧
    (addr.toNat + total.toNat ≤ 65536 → s.link = false → exec (.rdBuf addr total tmo) s =
      .next (({ s with rdcnt := 0, segcnt := 0 } : State).raise .linkNotOpen 0 0).readFailed) ∧
    ∀ i : Instr, i = .wrW addr v tmo ∨ i = .wrBuf addr v tmo →
      (¬(1 ≤ v.length ∧ v.length ≤ 123) → exec i s =
        .next (({ s with rdcnt := 0, segcnt := 0 } : State).raise .countRange v.length 0)) ∧
      (1 ≤ v.length ∧ v.length ≤ 123 → 65536 < addr.toNat + v.length → exec i s =
        .next (({ s with rdcnt := 0, segcnt := 0 } : State).raise .addrRange addr.toNat v.length)) ∧
      (1 ≤ v.length ∧ v.length ≤ 123 → addr.toNat + v.length ≤ 65536 → s.link = false → exec i s =
        .next (({ s with segcnt := 0 } : State).raise .linkNotOpen 0 0))

/-- A frame that `Tx` does not take whole (20_memory.md R62, 41_transport.md R164): WRITE_FAIL, the accepted prefix
stays sent, nothing is received. `RDB` after the fault of a read is free (log entry 11). -/
def Obligations.TransmitFault : Prop :=
  ∀ (s : State) (addr count : Word) (v : List Word) (tmo : Option Rat) (n : Nat),
    s.link = true → s.txAnswer = .ioError n →
    (1 ≤ count.toNat → count.toNat ≤ 125 → addr.toNat + count.toNat ≤ 65536 → exec (.rdW addr count tmo) s =
      .next (({ s.exchanged ((readRequest s.cfg.slaveAddr addr count).take n) [] s.env.rx with rdcnt := 0 } :
        State).raise .writeFail 0 0).readFailed) ∧
    (1 ≤ v.length → v.length ≤ 123 → addr.toNat + v.length ≤ 65536 →
      ∀ i : Instr, i = .wrW addr v tmo ∨ i = .wrBuf addr v tmo → exec i s =
        .next ((s.exchanged ((writeRequest s.cfg.slaveAddr addr v).take n) [] s.env.rx).raise .writeFail 0 0))

/-- RD.W delivers the words of a valid response, however the stream cuts it (41_transport.md R170, R171, R176). -/
def Obligations.RdWDelivers : Prop :=
  ∀ (s : State) (addr count : Word) (tmo : Option Rat) (sl : Byte) (w : List Word) (es rest : List RxStep),
    s.Ready addr count.toNat 125 → s.AcceptsSlave sl → w.length = count.toNat → s.env.rx = es ++ rest →
    Arrives es (readReply sl w) →
    ∃ left, Arrives left [] ∧ exec (.rdW addr count tmo) s = .next
      ({ s.exchanged (readRequest s.cfg.slaveAddr addr count) (readReply sl w) (left ++ rest) with
          rdb := cellsWriteAll s.rdb 0 w, rdcnt := count.setWidth 17 } : State).finished

/-- The faults of a read response in their order (41_transport.md R172 to R175, R200); bytes not asked for stay in the
stream (R168). Where the byte count is 254 or 255, the clauses of CRC_MISMATCH and BAD_BYTECOUNT say that `RXACC` keeps
the first 258 of the 259 or 260 bytes received: that is the model's choice and no rule's (DESIGN CHOICE, log entry 17),
and so of the 259 bytes of a response of byte count 255 that breaks off before its last byte. `RDB` after a fault is free
(log entry 11). A response that breaks off, in its head or after it, raises NO_RESPONSE, SHORT_RESPONSE or STREAM_CLOSED
with the bytes asked and got (R165; 60_exceptions.md R312). -/
def Obligations.ReadResponseFaults : Prop :=
  (∀ (s : State) (addr count : Word) (tmo : Option Rat) (b : List Byte) (closed : Bool) (es rest : List RxStep),
    s.Ready addr count.toNat 125 → s.env.rx = es ++ rest → BreaksOff es b closed →
    let ended (n got : Nat) : State :=
      (({ s.exchanged (readRequest s.cfg.slaveAddr addr count) b rest with rdcnt := 0 } : State).raise
        (shortCause closed got) n got).readFailed
    (b.length < 3 → exec (.rdW addr count tmo) s = .next (ended 3 b.length)) ∧
    ∀ (sl bc : Byte) (t : List Byte), b = [sl, 0x03, bc] ++ t → s.AcceptsSlave sl → t.length < bc.toNat + 2 →
      exec (.rdW addr count tmo) s = .next (ended (bc.toNat + 2) t.length)) ∧
  ∀ (s : State) (addr count : Word) (tmo : Option Rat) (sl fn bc : Byte) (payload more : List Byte) (lo hi : Byte)
    (es rest : List RxStep), s.Ready addr count.toNat 125 → s.env.rx = es ++ rest → payload.length = bc.toNat →
    Arrives es ([sl, fn, bc] ++ payload ++ [lo, hi] ++ more) →
    let head : List Byte := [sl, fn, bc]
    let body : List Byte := [sl, fn, bc] ++ payload
    let ended (got : List Byte) (left : List RxStep) (c : Cause) (i0 i1 : Int) : State :=
      (({ s.exchanged (readRequest s.cfg.slaveAddr addr count) got (left ++ rest) with rdcnt := 0 } : State).raise
        c i0 i1).readFailed
    ∃ left, (¬s.AcceptsSlave sl → Arrives left (payload ++ [lo, hi] ++ more) ∧
        exec (.rdW addr count tmo) s = .next (ended head left .wrongSlave sl.toNat 0)) ∧
      (s.AcceptsSlave sl → fn ≠ 0x03 → Arrives left (payload ++ [lo, hi] ++ more) ∧
        exec (.rdW addr count tmo) s = .next (ended head left .wrongFunction fn.toNat 0)) ∧
      (s.AcceptsSlave sl → fn = 0x03 → ¬(lo = lo8 (crc16 body) ∧ hi = hi8 (crc16 body)) → Arrives left more ∧
        exec (.rdW addr count tmo) s = .next
          (ended (body ++ [lo, hi]) left .crcMismatch (crc16 body).toNat (ofOctets hi lo).toNat)) ∧
      (s.AcceptsSlave sl → fn = 0x03 → lo = lo8 (crc16 body) ∧ hi = hi8 (crc16 body) → bc.toNat ≠ 2 * count.toNat →
        Arrives left more ∧ exec (.rdW addr count tmo) s = .next
          (ended (body ++ [lo, hi]) left .badByteCount bc.toNat count.toNat))

/-- WR.W and WR.BUF with an acknowledgement: the echo is stored and not compared (41_transport.md R180, R181, R183,
R195). -/
def Obligations.WriteAcknowledged : Prop :=
  ∀ (s : State) (addr : Word) (v : List Word) (tmo : Option Rat) (sl : Byte) (ea ec : Word) (es rest : List RxStep),
    s.Ready addr v.length 123 → s.AcceptsSlave sl → s.env.rx = es ++ rest → Arrives es (ackReply sl ea ec) →
    ∀ i : Instr, i = .wrW addr v tmo ∨ i = .wrBuf addr v tmo →
    ∃ left, Arrives left [] ∧ exec i s = .next
      ({ s.exchanged (writeRequest s.cfg.slaveAddr addr v) (ackReply sl ea ec) (left ++ rest) with
          echoaddr := ea, echocnt := ec } : State).finished

/-- A write whose response takes the failure path (41_transport.md R184), whose acknowledgement has a wrong CRC (R183),
or whose slave byte is refused (R175). A response that breaks off raises NO_RESPONSE, SHORT_RESPONSE or STREAM_CLOSED
with the bytes asked and got (R165; 60_exceptions.md R312): in its head, in an acknowledgement, before the error length
or in the error payload, where ERRFUNC and ERRLEN keep what was read and ERRBUF is as before (of ERRBUF that is the
model's reading: DEDUCED, log entry 24). -/
def Obligations.WriteResponseFaults : Prop :=
  (∀ (s : State) (addr : Word) (v : List Word) (tmo : Option Rat) (b : List Byte) (closed : Bool)
    (es rest : List RxStep), s.Ready addr v.length 123 → s.env.rx = es ++ rest → BreaksOff es b closed →
    ∀ i : Instr, i = .wrW addr v tmo ∨ i = .wrBuf addr v tmo →
    let sent : State := s.exchanged (writeRequest s.cfg.slaveAddr addr v) b rest
    (b.length < 2 → exec i s = .next (sent.raise (shortCause closed b.length) 2 b.length)) ∧
    (∀ (sl : Byte) (t : List Byte), b = [sl, 0x10] ++ t → s.AcceptsSlave sl → t.length < 6 →
      exec i s = .next (sent.raise (shortCause closed t.length) 6 t.length)) ∧
    (∀ sl fn : Byte, b = [sl, fn] → s.AcceptsSlave sl → fn ≠ 0x10 →
      exec i s = .next (({ sent with errfunc := fn } : State).raise (shortCause closed 0) 1 0)) ∧
    ∀ (sl fn len : Byte) (t : List Byte), b = [sl, fn, len] ++ t → s.AcceptsSlave sl → fn ≠ 0x10 →
      t.length < len.toNat → exec i s = .next
        (({ sent with errfunc := fn, errlen := len } : State).raise (shortCause closed t.length) len.toNat t.length)) ∧
  ∀ (s : State) (addr : Word) (v : List Word) (tmo : Option Rat) (sl fn lo hi : Byte) (ea ec : Word) (p : List Byte)
    (es rest : List RxStep), s.Ready addr v.length 123 → s.env.rx = es ++ rest → p.length ≤ 255 →
    ∀ i : Instr, i = .wrW addr v tmo ∨ i = .wrBuf addr v tmo →
    let sent (got : List Byte) (left : List RxStep) : State :=
      s.exchanged (writeRequest s.cfg.slaveAddr addr v) got (left ++ rest)
    (s.AcceptsSlave sl → fn ≠ 0x10 → Arrives es ([sl, fn, BitVec.ofNat 8 p.length] ++ p) →
      ∃ left, Arrives left [] ∧ exec i s = .next
        (({ sent ([sl, fn, BitVec.ofNat 8 p.length] ++ p) left with
            errfunc := fn, errlen := BitVec.ofNat 8 p.length, errbuf := cellsWriteAll s.errbuf 0 p } : State).raise
          .writeNak fn.toNat p.length)) ∧
    (let ack : List Byte := [sl, 0x10] ++ be16 ea ++ be16 ec
     s.AcceptsSlave sl → ¬(lo = lo8 (crc16 ack) ∧ hi = hi8 (crc16 ack)) → Arrives es (ack ++ [lo, hi]) →
      ∃ left, Arrives left [] ∧ exec i s = .next
        ((sent (ack ++ [lo, hi]) left).raise .crcMismatch (crc16 ack).toNat (ofOctets hi lo).toNat)) ∧
    (¬s.AcceptsSlave sl → Arrives es ([sl, fn] ++ p) →
      ∃ left, Arrives left p ∧ exec i s = .next ((sent [sl, fn] left).raise .wrongSlave sl.toNat 0))

/-- RD.BUF against a device with any contents: the words at their places, the requests of `ceil(total/125)` segments in
ascending order, each answered before the next is sent (41_transport.md R190, R191). -/
def Obligations.RdBufDelivers : Prop :=
  ∀ (s : State) (addr : Word) (total : BitVec 17) (tmo : Option Rat) (sl : Byte) (dev : Nat → Word)
    (txs : List TxAnswer) (es rest : List RxStep), addr.toNat + total.toNat ≤ 65536 → s.link = true →
    s.AcceptsSlave sl → s.env.tx = List.replicate ((total.toNat + 124) / 125) .ok ++ txs → s.env.rx = es ++ rest →
    Arrives es (segmentReplies sl dev addr.toNat total.toNat) → cellsWf s.rdb = true →
    ∃ t, exec (.rdBuf addr total tmo) s = .next t ∧ s.SameOutsideTransport t ∧
      t.rdcnt = total ∧ (∀ k, k < total.toNat → cellsRead t.rdb k = dev (addr.toNat + k)) ∧
      (∀ k, total.toNat ≤ k → cellsRead t.rdb k = cellsRead s.rdb k) ∧
      t.segcnt = BitVec.ofNat 16 ((total.toNat + 124) / 125) ∧ t.status = 0 ∧ t.busy = false ∧ t.seq = .idle ∧
      t.sent = s.sent ++ segmentRequests s.cfg.slaveAddr addr.toNat total.toNat ∧ t.env.tx = txs ∧
      ∃ left, Arrives left [] ∧ t.env.rx = left ++ rest

/-- A fault in segment `j` of RD.BUF, after `j` segments were answered (41_transport.md R193, 60_exceptions.md R322):
`SEGCNT` is `j + 1`, nothing is sent after that segment's request, and STATUS, the information words, what is sent and
what is consumed are those of RD.W on that segment, run on the streams as the earlier segments leave them. -/
def Obligations.RdBufSegmentFault : Prop :=
  ∀ (s : State) (addr : Word) (total : BitVec 17) (tmo : Option Rat) (sl : Byte) (dev : Nat → Word) (j : Nat)
    (txs : List TxAnswer) (es rest : List RxStep), addr.toNat + total.toNat ≤ 65536 → s.link = true →
    s.AcceptsSlave sl → 125 * j < total.toNat → s.env.tx = List.replicate j .ok ++ txs → s.env.rx = es ++ rest →
    Arrives es (segmentReplies sl dev addr.toNat (125 * j)) →
    let start : Word := BitVec.ofNat 16 (addr.toNat + 125 * j)
    let count : Word := BitVec.ofNat 16 (min (total.toNat - 125 * j) 125)
    ∃ left, Arrives left [] ∧ ∀ u : State,
      exec (.rdW start count tmo) { s with env := { s.env with tx := txs, rx := left ++ rest } } = .next u →
      u.status ≠ 0 → ∃ t p, exec (.rdBuf addr total tmo) s = .next t ∧
        t.status = u.status ∧ t.info0 = u.info0 ∧ t.info1 = u.info1 ∧ t.fsticky = u.fsticky ∧
        t.segcnt = BitVec.ofNat 16 (j + 1) ∧ t.rdcnt = 0 ∧ t.busy = false ∧ t.seq = .idle ∧ t.pend = none ∧
        t.rxacc = u.rxacc ∧ t.env = u.env ∧ u.sent = s.sent ++ p ∧
        t.sent = s.sent ++ segmentRequests s.cfg.slaveAddr addr.toNat (125 * j) ++ p

/-- Whatever the environment does, RD.W and RD.BUF end in one of the outcomes the rules list, idle, and touch nothing of
the other units (41_transport.md R177, R193, R200; 60_exceptions.md R322). -/
def Obligations.ReadOutcomes : Prop :=
  ∀ (s t : State) (addr count : Word) (total : BitVec 17) (tmo : Option Rat) (i : Instr),
    (i = .rdW addr count tmo ∨ i = .rdBuf addr total tmo) → exec i s = .next t →
    s.SameOutsideTransport t ∧ t.busy = false ∧ t.seq = .idle ∧ t.pend = none ∧
    (t.errfunc = s.errfunc ∧ t.errlen = s.errlen ∧ t.errbuf = s.errbuf ∧ t.echoaddr = s.echoaddr ∧
      t.echocnt = s.echocnt) ∧
    ((t.status = 0 ∧ t.info0 = s.info0 ∧ t.info1 = s.info1 ∧ t.fsticky = s.fsticky ∧
        t.rdcnt = (match i with | .rdW _ c _ => c.setWidth 17 | _ => total)) ∨
      (t.rdcnt = 0 ∧ ∃ c ∈ [Cause.countRange, .addrRange, .linkNotOpen, .writeFail, .streamClosed, .noResponse,
          .shortResponse, .wrongSlave, .wrongFunction, .crcMismatch, .badByteCount],
        t.status = c.status ∧ t.fsticky = s.fsticky ||| c.kind.stickyBit))

/-- The same of WR.W and WR.BUF: `ECHOADDR`, `ECHOCNT` change only on success, `ERRFUNC`, `ERRLEN`, `ERRBUF` only on the
failure path (41_transport.md R183 to R185; 60_exceptions.md R322); `RDCNT` only if the operands are refused (R163, log
entry 15). -/
def Obligations.WriteOutcomes : Prop :=
  ∀ (s t : State) (addr : Word) (v : List Word) (tmo : Option Rat) (i : Instr),
    (i = .wrW addr v tmo ∨ i = .wrBuf addr v tmo) → exec i s = .next t →
    s.SameOutsideTransport t ∧ t.busy = false ∧ t.seq = .idle ∧ t.pend = none ∧ t.rdb = s.rdb ∧
    (t.rdcnt = if t.status = 0x82 ∨ t.status = 0x83 then 0 else s.rdcnt) ∧
    ((t.status = 0 ∧ t.info0 = s.info0 ∧ t.info1 = s.info1 ∧ t.fsticky = s.fsticky ∧ t.errfunc = s.errfunc ∧
        t.errlen = s.errlen ∧ t.errbuf = s.errbuf) ∨
      (t.echoaddr = s.echoaddr ∧ t.echocnt = s.echocnt ∧
        ∃ c ∈ [Cause.countRange, .addrRange, .linkNotOpen, .writeFail, .streamClosed, .noResponse, .shortResponse,
            .wrongSlave, .crcMismatch, .writeNak],
          t.status = c.status ∧ t.fsticky = s.fsticky ||| c.kind.stickyBit ∧
          (c ∈ [Cause.countRange, .addrRange, .linkNotOpen, .writeFail, .wrongSlave, .crcMismatch] →
            t.errfunc = s.errfunc ∧ t.errlen = s.errlen ∧ t.errbuf = s.errbuf)))

/-- No request is sent twice: what an operation sends is a prefix of its own request frames (41_transport.md R167). -/
def Obligations.SentOnce : Prop :=
  ∀ (s t : State) (addr count : Word) (total : BitVec 17) (v : List Word) (tmo : Option Rat),
    (exec (.rdW addr count tmo) s = .next t →
      ∃ p, p <+: readRequest s.cfg.slaveAddr addr count ∧ t.sent = s.sent ++ p) ∧
    (exec (.rdBuf addr total tmo) s = .next t →
      ∃ p, p <+: segmentRequests s.cfg.slaveAddr addr.toNat total.toNat ∧ t.sent = s.sent ++ p) ∧
    ∀ i : Instr, i = .wrW addr v tmo ∨ i = .wrBuf addr v tmo → exec i s = .next t →
      ∃ p, p <+: writeRequest s.cfg.slaveAddr addr v ∧ t.sent = s.sent ++ p

/-- A low-level read over given answers: `n` bytes, or fewer and a fault; the bytes consumed are gone from the stream,
the others stay in it, in order (41_transport.md R165, R168). `RXACC` accumulates them up to its 258 bytes (10_state.md
R28; which bytes it keeps of more is the model's, log entry 17). -/
def Obligations.RxConsumes : Prop :=
  ∀ (n : Nat) (bound : Rat) (s : State), 1 ≤ n → s.rxFree n = false →
    match receive n bound s with
    | .ok b t => b.length = n ∧ t.rxacc = (s.rxacc ++ b).take 258 ∧ b ++ streamBytes t.env.rx = streamBytes s.env.rx
    | .error _ t => ∃ got, got.length < n ∧ t.rxacc = (s.rxacc ++ got).take 258 ∧
        got ++ streamBytes t.env.rx = streamBytes s.env.rx ∧ t.info0 = BitVec.ofNat 32 n ∧
        t.info1 = BitVec.ofNat 32 got.length ∧
        (t.status = 0x23 ∨ t.status = 0x41 ∧ got = [] ∨ t.status = 0x42 ∧ got ≠ [])

/-- CSR.RD of every register of 10_state.md R26, and of any other number (41_transport.md R198); CSR.WR (R199). -/
def Obligations.RegisterAccess : Prop :=
  (∀ (s : State) (r : Byte) (x : Rat),
    (r, x) ∈ [((0x00 : Byte), (s.cfg.slaveAddr.toNat : Rat)), (0x01, 125), (0x02, 123), (0x03, s.tmo),
      (0x04, if s.link then 1 else 0), (0x05, if s.busy then 1 else 0), (0x06, (s.status.toNat : Rat)),
      (0x07, (s.fsticky.toNat : Rat)), (0x08, (s.info0.toNat : Rat)), (0x09, (s.info1.toNat : Rat)),
      (0x0A, (s.errfunc.toNat : Rat)), (0x0B, (s.errlen.toNat : Rat)), (0x0C, (s.echoaddr.toNat : Rat)),
      (0x0D, (s.echocnt.toNat : Rat)), (0x0E, (s.rdcnt.toNat : Rat)), (0x0F, (s.segcnt.toNat : Rat)),
      (0x10, s.cfg.fSys)] → exec (.csrRd r) s = .next { s with scr := x }) ∧
  (∀ (s : State) (r : Byte), 0x10 < r.toNat → exec (.csrRd r) s = .next (s.raise .badCsr r.toNat 0)) ∧
  (∀ (s : State) (x : Rat), exec (.csrWr 0x03 x) s = .next { s with tmo := x, status := 0 }) ∧
  ∀ (s : State) (r : Byte) (x : Rat), r ≠ 0x03 → exec (.csrWr r x) s = .next (s.raise .badCsr r.toNat 0)

/-- LINK.OPEN under either answer (41_transport.md R196; which waiting receive answers the host's driver drops is the
environment's, R353) and LINK.CLOSE, twice as once (R197). -/
def Obligations.LinkOperations : Prop :=
  (∀ s : State, s.openAnswer.ok = true → exec .linkOpen s = .next { s.openDrawn with link := true, status := 0 }) ∧
  (∀ s : State, s.openAnswer.ok = false → exec .linkOpen s =
    .next (({ s.openDrawn with link := false } : State).raise .openFail 0 0)) ∧
  (∀ s : State, exec .linkClose s = .next { s with link := false, status := 0 }) ∧
  ∀ s : State, execAll [.linkClose, .linkClose] s = exec .linkClose s

/-! ### Frames and pseudo-operations -/

/-- RDREQ and WRREQ open a transaction and wait for its response (30_encoding.md R92, R94; the split of an operation
into moves is the model's, log entry 5). -/
def Obligations.RequestMoves : Prop :=
  (∀ (s : State) (addr count : Word), s.Ready addr count.toNat 125 → exec (.rdreq addr count) s =
    .next { s.exchanged (readRequest s.cfg.slaveAddr addr count) [] s.env.rx with
      rdcnt := 0, busy := true, seq := .rx1, pend := some ⟨.read count, s.tmo⟩ }) ∧
  ∀ (s : State) (addr : Word) (v : List Word), s.Ready addr v.length 123 → exec (.wrreq addr v) s =
    .next { s.exchanged (writeRequest s.cfg.slaveAddr addr v) [] s.env.rx with
      busy := true, seq := .rx1, pend := some ⟨.write, s.tmo⟩ }

/-- RDRSP, WRACK and WRERR on a line nothing waits at, and received by an engine that awaits them (30_encoding.md R93,
R95, R96; log entry 5). -/
def Obligations.ResponseMoves : Prop :=
  (∀ (s : State) (sl fn : Byte) (p : List Byte) (addr count crc : Word), s.pend = none →
    exec (.rdrsp sl p crc) s =
      .next { s with env := { s.env with rx := s.env.rx ++ [⟨.data (readResponse sl p crc), false⟩] } } ∧
    exec (.wrack sl addr count crc) s =
      .next { s with env := { s.env with rx := s.env.rx ++ [⟨.data (writeAck sl addr count crc), false⟩] } } ∧
    exec (.wrerr sl fn p) s =
      .next { s with env := { s.env with rx := s.env.rx ++ [⟨.data (writeError sl fn p), false⟩] } }) ∧
  (∀ (s : State) (sl : Byte) (w : List Word) (count crc : Word) (bound : Rat), s.pend = some ⟨.read count, bound⟩ →
    s.AcceptsSlave sl → s.rxacc = [] → Arrives s.env.rx [] → w.length = count.toNat → w.length ≤ 125 →
    readResponse sl (wordsToBytes w) crc = readReply sl w → exec (.rdrsp sl (wordsToBytes w) crc) s =
      .next ({ s with
        rdb := cellsWriteAll s.rdb 0 w, rdcnt := count.setWidth 17, rxacc := readReply sl w
        env := { s.env with rx := [] } } : State).finished) ∧
  (∀ (s : State) (sl : Byte) (addr count crc : Word) (bound : Rat), s.pend = some ⟨.write, bound⟩ →
    s.AcceptsSlave sl → s.rxacc = [] → Arrives s.env.rx [] → writeAck sl addr count crc = ackReply sl addr count →
    exec (.wrack sl addr count crc) s =
      .next ({ s with
        echoaddr := addr, echocnt := count, rxacc := ackReply sl addr count
        env := { s.env with rx := [] } } : State).finished) ∧
  ∀ (s : State) (sl fn : Byte) (p : List Byte) (bound : Rat), s.pend = some ⟨.write, bound⟩ → s.AcceptsSlave sl →
    s.rxacc = [] → Arrives s.env.rx [] → fn ≠ 0x10 → p.length ≤ 255 → exec (.wrerr sl fn p) s =
      .next (({ s with
        errfunc := fn, errlen := BitVec.ofNat 8 p.length, errbuf := cellsWriteAll s.errbuf 0 p
        rxacc := writeError sl fn p, env := { s.env with rx := [] } } : State).raise .writeNak fn.toNat p.length)

/-- A request move and the response move after it do together what the one operation does with that response waiting in
the stream, for every response, good or bad (41_transport.md R170, R180; log entry 5). -/
def Obligations.MovesMakeTheOperation : Prop :=
  (∀ (s : State) (addr count : Word) (sl : Byte) (p : List Byte) (crc : Word),
    execAll [.rdreq addr count, .rdrsp sl p crc] s = exec (.rdW addr count none)
      { s with env := { s.env with rx := s.env.rx ++ [⟨.data (readResponse sl p crc), false⟩] } }) ∧
  (∀ (s : State) (addr : Word) (v : List Word) (sl : Byte) (ea ec crc : Word),
    execAll [.wrreq addr v, .wrack sl ea ec crc] s = exec (.wrW addr v none)
      { s with env := { s.env with rx := s.env.rx ++ [⟨.data (writeAck sl ea ec crc), false⟩] } }) ∧
  ∀ (s : State) (addr : Word) (v : List Word) (sl fn : Byte) (p : List Byte),
    execAll [.wrreq addr v, .wrerr sl fn p] s = exec (.wrW addr v none)
      { s with env := { s.env with rx := s.env.rx ++ [⟨.data (writeError sl fn p), false⟩] } }

/-- 30_encoding.md R104: each pseudo-operation is the sequence of its two operations; a fault in the first ends it.
RD.PROF on a slot past the last or not loaded raises BAD_SLOT or HC_NOT_LOADED before anything is sent: read from
44_config.md R241 and 60_exceptions.md R316 by inference (DEDUCED, log entry 14). A block that runs past the last address
is refused as RD.BUF refuses it (41_transport.md R163), however many words `n_vol` asks for; the counter of free values
grows by one there (log entry 14) and `RDB` is free (log entry 11). -/
def Obligations.PseudoOperationsExpand : Prop :=
  (∀ (s t : State) (k : Nat) (a : Word), exec (.cfgToRegs k) s = .next t → exec (.wrCfg k a) s =
    if k < s.nSlots ∧ s.slotValid k = true then exec (.wrW a (s.slotRegs k).toRegs none) t else .next t) ∧
  (∀ (s t : State) (k : Nat) (a : Word), exec (.rdW a 17 none) s = .next t → exec (.rdCfg k a) s =
    if t.status = 0 then exec (.cfgFromRegs k (cellsReadAll t.rdb 0 17)) t else .next t) ∧
  (∀ (s : State) (k : Nat) (a : Word), s.nSlots ≤ k → exec (.rdProf k a) s = .next (s.raise .badSlot k 0)) ∧
  (∀ (s : State) (k : Nat) (a : Word), k < s.nSlots → s.slotValid k = false →
    exec (.rdProf k a) s = .next (s.raise .hcNotLoaded k 0)) ∧
  (∀ (s : State) (k n : Nat) (a : Word), k < s.nSlots → s.slotValid k = true →
    (n : Int) = 11 + 4 * sRead (s.slotRegs k).nVol → 65536 < a.toNat + n → exec (.rdProf k a) s =
      .next (({ s with rdcnt := 0, segcnt := 0, draws := s.draws + 1 } : State).raise .addrRange a.toNat n).readFailed) ∧
  ∀ (s t : State) (k : Nat) (a : Word) (total : BitVec 17), k < s.nSlots → s.slotValid k = true →
    (total.toNat : Int) = 11 + 4 * sRead (s.slotRegs k).nVol →
    exec (.rdBuf a total none) { s with draws := s.draws + 1 } = .next t → exec (.rdProf k a) s =
      if t.status = 0 then exec (.profDec (wordsToBytes (cellsReadAll t.rdb 0 t.rdcnt.toNat)) k) t else .next t

/-- WR.CFG and RD.CFG against a device that acknowledges, or answers with 17 words (30_encoding.md R104). -/
def Obligations.ConfigTransfers : Prop :=
  (∀ (s : State) (k : Nat) (a : Word) (sl : Byte) (ea ec : Word) (es rest : List RxStep), k < s.nSlots →
    s.slotValid k = true → s.Ready a 17 123 → s.AcceptsSlave sl → s.env.rx = es ++ rest →
    Arrives es (ackReply sl ea ec) →
    ∃ left, Arrives left [] ∧ exec (.wrCfg k a) s = .next
      ({ s.exchanged (writeRequest s.cfg.slaveAddr a (s.slotRegs k).toRegs) (ackReply sl ea ec) (left ++ rest) with
          rl := (s.slotRegs k).toRegs, echoaddr := ea, echocnt := ec } : State).finished) ∧
  ∀ (s : State) (k : Nat) (a : Word) (sl : Byte) (h : HwConfig) (es rest : List RxStep), k < s.nSlots →
    s.Ready a 17 125 → s.AcceptsSlave sl → s.env.rx = es ++ rest → Arrives es (readReply sl h.toRegs) →
    cellsWf s.rdb = true →
    ∃ left, Arrives left [] ∧ exec (.rdCfg k a) s = .next
      ({ s.exchanged (readRequest s.cfg.slaveAddr a 17) (readReply sl h.toRegs) (left ++ rest) with
          rdb := cellsWriteAll s.rdb 0 h.toRegs, rdcnt := 17, hc := s.hc.set k ⟨true, h⟩ } : State).finished

/-- RD.PROF against a device with any contents: the block is read and decoded with the slot's configuration
(30_encoding.md R104). -/
def Obligations.ProfileTransfer : Prop :=
  ∀ (s : State) (k : Nat) (a : Word) (n : Nat) (sl : Byte) (dev : Nat → Word) (txs : List TxAnswer)
    (es rest : List RxStep), k < s.nSlots → s.slotValid k = true → sRead (s.slotRegs k).nVol = n →
    sRead (s.slotRegs k).cPrf ≠ 0 → 0 < sRead (s.slotRegs k).nAvg → a.toNat + (11 + 4 * n) ≤ 65536 → s.link = true →
    s.AcceptsSlave sl → s.env.tx = List.replicate ((11 + 4 * n + 124) / 125) .ok ++ txs → s.env.rx = es ++ rest →
    Arrives es (segmentReplies sl dev a.toNat (11 + 4 * n)) → cellsWf s.rdb = true →
    ∃ t, exec (.rdProf k a) s = .next t ∧ t.status = 0 ∧ t.prv = true ∧
      t.pr = profileRecord s.cfg (s.slotRegs k) (deviceWords dev a.toNat (11 + 4 * n)) ∧
      t.gt = profileGains s.cfg (s.slotRegs k) (deviceWords dev a.toNat (11 + 4 * n)) ∧
      s.SameOutsideTransport { t with gt := s.gt, pr := s.pr, prv := s.prv } ∧
      t.rdcnt = BitVec.ofNat 17 (11 + 4 * n) ∧
      (∀ j, j < 11 + 4 * n → cellsRead t.rdb j = dev (a.toNat + j)) ∧
      (∀ j, 11 + 4 * n ≤ j → cellsRead t.rdb j = cellsRead s.rdb j) ∧
      (t.errfunc = s.errfunc ∧ t.errlen = s.errlen ∧ t.errbuf = s.errbuf ∧ t.echoaddr = s.echoaddr ∧
        t.echocnt = s.echocnt ∧ t.info0 = s.info0 ∧ t.info1 = s.info1 ∧ t.fsticky = s.fsticky) ∧
      (t.busy = false ∧ t.seq = .idle ∧ t.pend = none) ∧
      t.segcnt = BitVec.ofNat 16 ((11 + 4 * n + 124) / 125) ∧
      t.sent = s.sent ++ segmentRequests s.cfg.slaveAddr a.toNat (11 + 4 * n) ∧ t.env.tx = txs ∧
      ∃ left, Arrives left [] ∧ t.env.rx = left ++ rest

/-! ### Casts -/

/-- 42_casts.md R211, R212: the two casts round first, then clamp, with the corner cases the rules list. -/
def Obligations.CastResults : Prop :=
  (∀ (s : State) (x : Rat), exec (.castS16 x) s =
    .next { s with scr := ((max (-32768) (min 32767 (rni s.cfg.roundTie x)) : Int) : Rat), status := 0 }) ∧
  (∀ (s : State) (x : Rat), exec (.castU16 x) s =
    .next { s with scr := ((max 0 (min 65535 (rni s.cfg.roundTie x)) : Int) : Rat), status := 0 }) ∧
  (let c := Config.default
   [327674 / 10, 327675 / 10, -327685 / 10, 1000000000, -1000000000, 1 / 2, 3 / 2, 5 / 2, -1 / 2, -3 / 2, 7019 / 10].map
      (castS16 c) = [32767, 32767, -32768, 32767, -32768, 0, 2, 2, 0, -2, 702] ∧
   [1 / 2, 3 / 2, 5 / 2, -1 / 2, -3 / 2].map (castS16 { c with roundTie := .away }) = [1, 2, 3, -1, -2] ∧
   [-4 / 10, -3, 655355 / 10, 70000, 32768, 14, -865 / 10].map (castU16 c) = [0, 0, 65535, 65535, 32768, 14, 0])

/-- `rni` (00_scope.md R16): an integer at most 1/2 away; a tie goes to the even one, or away from zero. -/
def Obligations.RoundToNearest : Prop :=
  ∀ x : Rat,
    (∀ t : RoundTie, (rni t x : Rat) - x ≤ 1 / 2 ∧ x - (rni t x : Rat) ≤ 1 / 2) ∧
    (x - (x.floor : Rat) = 1 / 2 → rni .even x % 2 = 0 ∧
      (0 ≤ x → (rni .away x : Rat) = x + 1 / 2) ∧ (x < 0 → (rni .away x : Rat) = x - 1 / 2))

/-- 42_casts.md R213, for every `x` and not only the integers the source tests: bounds, identity on the range,
saturation outside it, idempotence, monotonicity, of both casts. -/
def Obligations.CastProperties : Prop :=
  ∀ c : Config,
    (∀ x : Rat, (-32768 ≤ castS16 c x ∧ castS16 c x ≤ 32767) ∧ castS16 c (castS16 c x : Rat) = castS16 c x) ∧
    (∀ n : Int, (-32768 ≤ n → n ≤ 32767 → castS16 c (n : Rat) = n) ∧ (32767 < n → castS16 c (n : Rat) = 32767) ∧
      (n < -32768 → castS16 c (n : Rat) = -32768)) ∧
    (∀ x y : Rat, x ≤ y → castS16 c x ≤ castS16 c y) ∧
    (∀ x : Rat, (0 ≤ castU16 c x ∧ castU16 c x ≤ 65535) ∧ castU16 c (castU16 c x : Rat) = castU16 c x) ∧
    (∀ n : Int, (0 ≤ n → n ≤ 65535 → castU16 c (n : Rat) = n) ∧ (65535 < n → castU16 c (n : Rat) = 65535) ∧
      (n < 0 → castU16 c (n : Rat) = 0)) ∧
    ∀ x y : Rat, x ≤ y → castU16 c x ≤ castU16 c y

/-! ### Gain -/

/-- G.S2C, G.C2S, G.I2C, G.C2I by their formulas (43_gain.md R222 to R225): one decimal, then the clamp; the ceiling of
G.I2C is the applied one; G.C2S divides by the cell size and faults on 0. -/
def Obligations.GainScalars : Prop :=
  ∀ s : State, s.cfg.num = .exact →
    let ratio := s.cfg.codeDbRatio
    let round1 (x : Rat) : Rat := (rni s.cfg.roundTie (10 * x) : Rat) / 10
    (∀ a1 r : Rat, exec (.gS2C a1 r) s =
      .next { s with scr := clamp (round1 (16 * a1 * r / ratio)) (-4096) 4095, status := 0 }) ∧
    (∀ code r : Rat, r ≠ 0 → exec (.gC2S code r) s =
      .next { s with scr := code * ratio / (16 * r), status := 0 }) ∧
    (∀ code : Rat, exec (.gC2S code 0) s = .next (s.raise .divZero 0 0)) ∧
    (∀ a0 : Rat, exec (.gI2C a0) s =
      .next { s with scr := clamp (round1 ((a0 - s.cfg.chainDb) / ratio)) (-4096) 1241, status := 0 }) ∧
    ∀ code : Rat, exec (.gC2I code) s = .next { s with scr := code * ratio + s.cfg.chainDb, status := 0 }

/-- In the exact domain: the intercept conversions return an applied code of one decimal exactly, any applied code
within 0.05 (43_gain.md R229); the slope conversions return a slope within the bound of R223 where the clamp does not
act. Under `binary64` the tolerance form: the same up to a millionth, for a chain constant and a ratio of any ordinary
size (the rounding error of the number format, and that operands and parameters are not rounded, are the model's, log
entries 12 and 28). -/
def Obligations.GainRoundTrips : Prop :=
  (∀ cfg : Config, cfg.num = .binary64 → -1000 ≤ cfg.chainDb → cfg.chainDb ≤ 1000 → 1 / 1000 ≤ cfg.codeDbRatio →
    cfg.codeDbRatio ≤ 1000 → ∀ c : Rat, 50 ≤ c → c ≤ 1241 →
      |i2c cfg (c2i cfg c) - c| ≤ 1 / 20 + 1 / 1000000 ∧
      ((∃ k : Int, c = k / 10) → |i2c cfg (c2i cfg c) - c| ≤ 1 / 1000000)) ∧
  ∀ cfg : Config, cfg.num = .exact → 0 < cfg.codeDbRatio →
    (∀ c : Rat, 50 ≤ c → c ≤ 1241 →
      i2c cfg (c2i cfg c) = clamp ((rni cfg.roundTie (10 * c) : Rat) / 10) (-4096) 1241 ∧
      ((∃ k : Int, c = k / 10) → i2c cfg (c2i cfg c) = c) ∧
      (i2c cfg (c2i cfg c) - c ≤ 1 / 20 ∧ c - i2c cfg (c2i cfg c) ≤ 1 / 20)) ∧
    ∀ a1 r : Rat, r ≠ 0 → -4096 < s2c cfg a1 r → s2c cfg a1 r < 4095 →
      |c2s cfg (s2c cfg a1 r) r - a1| ≤ 5 / 100 * cfg.codeDbRatio / (16 * |r|)

/-- 43_gain.md R226: G.TABLE, every entry by the formula, the blind value on a tie. -/
def Obligations.GainTable : Prop :=
  ∀ (s : State) (n : BitVec 15) (ci cs bi bs : Rat), s.cfg.num = .exact →
    ∃ g : List Gain, exec (.gTable n ci cs bi bs) s = .next { s with gt := g, status := 0 } ∧ g.length = n.toNat ∧
      ∀ i, i < n.toNat →
        let dl := clamp (ci + i * cs / 16) 50 1241 * s.cfg.codeDbRatio + s.cfg.chainDb
        let db := clamp (bi + i * bs / 16) 50 1241 * s.cfg.codeDbRatio + s.cfg.chainDb
        g[i]? = some ⟨if db ≤ dl then db else dl⟩

/-- 43_gain.md R230: under any monotone dB-to-linear function, into the reals or any other ordered type, no entry passes
the blind ceiling, and every entry lies between the values of codes 50 and 1241. -/
def Obligations.GainTableBounded : Prop :=
  ∀ (K : Type) [Preorder K] (cfg : Config) (pow : Rat → K) (n : Nat) (ci cs bi bs : Rat), cfg.num = .exact → 0 < cfg.codeDbRatio →
    (∀ x y, x ≤ y → pow x ≤ pow y) →
    ∀ (i : Nat) (g : Gain), (gtab cfg n ci cs bi bs)[i]? = some g →
      g.value pow ≤ pow (c2i cfg (clamp (bi + i * bs / 16) 50 1241)) ∧
      pow (c2i cfg 50) ≤ g.value pow ∧ g.value pow ≤ pow (c2i cfg 1241)

/-! ### Configuration codec -/

/-- 44_config.md R242: CFG.FROMUSER, all 17 words by the chain, in the exact domain. -/
def Obligations.FromUserResult : Prop :=
  ∀ (s : State) (k : Nat) (A : AcousticConfig) (c : Rat) (blind : Option BlindLimits), s.cfg.num = .exact →
    k < s.nSlots → A.f0 ≠ 0 → A.prf ≠ 0 → c ≠ 0 → castS16 s.cfg (s.cfg.fSys / A.f0 - 1) + 1 ≠ 0 →
    let cast (x : Rat) : Int := castS16 s.cfg x
    let div := cast (s.cfg.fSys / A.f0 - 1)
    let f0e : Rat := s.cfg.fSys / ((div + 1 : Int) : Rat)
    let cprf := cast (f0e / A.prf)
    let nem : Int := if A.rEm = 0 then 0 else max 1 (cast (2 * f0e * A.rEm / c))
    let reme : Rat := c / (2 * f0e) * nem
    let cvol1 := castU16 s.cfg (2 * f0e / c * (A.rVol1 - reme / 2))
    let cdvol := cast ((max (cast (2 * f0e / c * A.rDvol)) (Rat.ceil (75 / 100000000 * f0e + 1)) : Int) : Rat)
    let rdve : Rat := c / (2 * f0e) * cdvol
    let phi := cast (A.vMin * cprf * 65535 / c)
    let mode : Nat := 3 * A.burstMode.toNat + 4 * A.phaseCoding.toNat + 256 * A.staticEchoFilter.toNat +
      512 * A.gainAuto.toNat
    let b : Int × Int := match blind with
      | none => (s.cfg.blindCa0, s.cfg.blindCa1)
      | some l => (cast (i2c s.cfg l.a0Max), cast (s2c s.cfg l.a1Max rdve))
    let words : HwConfig := {
      divF0 := pat div, nTir := pat (cast A.nEch), cPrf := pat cprf, nEm := pat nem, nVol := pat (cast A.nVol),
      cVol1 := pat cvol1, cDvol := pat cdvol, gainCa0 := pat (cast (i2c s.cfg A.gainA0)),
      gainCa1 := pat (cast (s2c s.cfg A.gainA1 rdve)), tr := 0, phiMin := pat phi, method := BitVec.ofNat 16 mode,
      reserved1 := 0, reserved2 := 0, nAvg := pat (cast A.nAvg), blindCa0 := pat b.1, blindCa1 := pat b.2 }
    exec (.cfgFromUser k A c blind) s = .next { s with hc := s.hc.set k ⟨true, words⟩, status := 0 }

/-- 44_config.md R255: the faults of CFG.FROMUSER in their order; no word and no valid bit is written. -/
def Obligations.FromUserFaults : Prop :=
  ∀ (s : State) (k : Nat) (A : AcousticConfig) (c : Rat) (blind : Option BlindLimits),
    (s.nSlots ≤ k → exec (.cfgFromUser k A c blind) s = .next (s.raise .badSlot k 0)) ∧
    (k < s.nSlots → A.f0 = 0 ∨ A.prf = 0 ∨ c = 0 →
      exec (.cfgFromUser k A c blind) s = .next (s.raise .divZero 0 0)) ∧
    (s.cfg.num = .exact → k < s.nSlots → A.f0 ≠ 0 → A.prf ≠ 0 → c ≠ 0 →
      castS16 s.cfg (s.cfg.fSys / A.f0 - 1) + 1 = 0 →
      exec (.cfgFromUser k A c blind) s = .next (s.raise .divZero 0 0))

/-- 44_config.md R256, R257: CFG.FROMREGS and CFG.TOREGS, with their faults; no other length is truncated or padded.
R259: every list of 17 patterns comes back exactly. -/
def Obligations.RegisterLists : Prop :=
  ∀ (s : State) (k : Nat),
    (∀ h : HwConfig, k < s.nSlots → exec (.cfgFromRegs k h.toRegs) s =
      .next { s with hc := s.hc.set k ⟨true, h⟩, status := 0 }) ∧
    (∀ l : List Word, k < s.nSlots → l.length ≠ 17 → exec (.cfgFromRegs k l) s =
      .next (s.raise .cfgLength l.length 0)) ∧
    (∀ l : List Word, s.nSlots ≤ k → exec (.cfgFromRegs k l) s = .next (s.raise .badSlot k 0)) ∧
    (k < s.nSlots → s.slotValid k = true → exec (.cfgToRegs k) s =
      .next { s with rl := (s.slotRegs k).toRegs, status := 0 }) ∧
    (k < s.nSlots → s.slotValid k = false → exec (.cfgToRegs k) s = .next (s.raise .hcNotLoaded k 0)) ∧
    (s.nSlots ≤ k → exec (.cfgToRegs k) s = .next (s.raise .badSlot k 0)) ∧
    ∀ l : List Word, k < s.nSlots → l.length = 17 →
      ∃ t, execAll [.cfgFromRegs k l, .cfgToRegs k] s = .next t ∧ t.rl = l ∧ t.status = 0

/-- 44_config.md R258: CFG.TOUSER, every field by its formula in the exact domain (the four readings of `burst_mode` by
30_encoding.md R113), and its faults in their order, after
which `UCR` is free (log entry 11). -/
def Obligations.ToUserResult : Prop :=
  ∀ (s : State) (k : Nat) (c : Rat),
    let h := s.slotRegs k
    let zero : Prop := sRead h.divF0 + 1 = 0 ∨ sRead h.cPrf = 0 ∨ c = 0 ∨ sRead h.cDvol = 0
    let f0 : Rat := s.cfg.fSys / ((sRead h.divF0 + 1 : Int) : Rat)
    let rem : Rat := c / (2 * f0) * sRead h.nEm
    let rdvol : Rat := c / (2 * f0) * sRead h.cDvol
    let record : AcousticConfig := {
      f0 := f0, prf := f0 / sRead h.cPrf, nEch := sRead h.nTir, rEm := rem,
      rVol1 := c / (2 * f0) * (h.cVol1.toNat : Rat) + rem / 2, rDvol := rdvol, nVol := sRead h.nVol,
      gainA0 := sRead h.gainCa0 * s.cfg.codeDbRatio + s.cfg.chainDb,
      gainA1 := sRead h.gainCa1 * s.cfg.codeDbRatio / (16 * rdvol), gainAuto := h.method.getLsbD 9,
      staticEchoFilter := h.method.getLsbD 8, phaseCoding := h.method.getLsbD 2,
      burstMode := (match s.cfg.burstTest with
        | .bit0 => h.method.getLsbD 0
        | .bit1 => h.method.getLsbD 1
        | .both => h.method.getLsbD 0 && h.method.getLsbD 1
        | .any => h.method.getLsbD 0 || h.method.getLsbD 1)
      nAvg := sRead h.nAvg
      vMin := sRead h.phiMin * c / (sRead h.cPrf * 65535) }
    (k < s.nSlots → s.slotValid k = true → ¬zero → s.cfg.num = .exact → exec (.cfgToUser k c) s =
      .next { s with ucr := record, status := 0 }) ∧
    (s.nSlots ≤ k → exec (.cfgToUser k c) s = .next (s.raise .badSlot k 0).toUserFailed) ∧
    (k < s.nSlots → s.slotValid k = false → exec (.cfgToUser k c) s =
      .next (s.raise .hcNotLoaded k 0).toUserFailed) ∧
    (k < s.nSlots → s.slotValid k = true → zero → exec (.cfgToUser k c) s =
      .next (s.raise .divZero 0 0).toUserFailed)

/-- CFG.FROMUSER and then CFG.TOUSER return the three counts that fit a signed word and the four booleans exactly,
whatever `BURST_TEST` (44_config.md R245, R252, R258; 30_encoding.md R113: the four tests agree on every encoded
word). -/
def Obligations.CountsAndModesReturn : Prop :=
  ∀ (s t u : State) (k : Nat) (A : AcousticConfig) (c c' : Rat) (blind : Option BlindLimits),
    exec (.cfgFromUser k A c blind) s = .next t → t.status = 0 → exec (.cfgToUser k c') t = .next u → u.status = 0 →
    (-32768 ≤ A.nEch → A.nEch ≤ 32767 → u.ucr.nEch = A.nEch) ∧
    (-32768 ≤ A.nVol → A.nVol ≤ 32767 → u.ucr.nVol = A.nVol) ∧
    (-32768 ≤ A.nAvg → A.nAvg ≤ 32767 → u.ucr.nAvg = A.nAvg) ∧
    u.ucr.burstMode = A.burstMode ∧ u.ucr.phaseCoding = A.phaseCoding ∧
    u.ucr.staticEchoFilter = A.staticEchoFilter ∧ u.ucr.gainAuto = A.gainAuto

/-- CFG.BLOCKDUR (44_config.md R261) and CFG.EQ (R262), with their faults in their order. -/
def Obligations.ConfigQueries : Prop :=
  ∀ (s : State) (k j : Nat),
    (let h := s.slotRegs k
     k < s.nSlots → s.slotValid k = true → s.cfg.num = .exact → exec (.cfgBlockDur k) s = .next { s with
      bdur := sRead h.nTir * sRead h.nAvg * ((sRead h.divF0 + 1 : Int) : Rat) * sRead h.cPrf / s.cfg.fSys
      status := 0 }) ∧
    (s.nSlots ≤ k → exec (.cfgBlockDur k) s = .next (s.raise .badSlot k 0)) ∧
    (k < s.nSlots → s.slotValid k = false → exec (.cfgBlockDur k) s = .next (s.raise .hcNotLoaded k 0)) ∧
    (k < s.nSlots → j < s.nSlots → s.slotValid k = true → s.slotValid j = true → exec (.cfgEq k j) s =
      .next { s with eqf := (s.slotRegs k).toRegs == (s.slotRegs j).toRegs, status := 0 }) ∧
    (s.nSlots ≤ k → exec (.cfgEq k j) s = .next (s.raise .badSlot k 0)) ∧
    (k < s.nSlots → s.nSlots ≤ j → exec (.cfgEq k j) s = .next (s.raise .badSlot j 0)) ∧
    (k < s.nSlots → j < s.nSlots → s.slotValid k = false → exec (.cfgEq k j) s =
      .next (s.raise .hcNotLoaded k 0)) ∧
    (k < s.nSlots → j < s.nSlots → s.slotValid k = true → s.slotValid j = false → exec (.cfgEq k j) s =
      .next (s.raise .hcNotLoaded j 0))

/-- 30_encoding.md R113: the mode word as a sum, its largest value, and the four booleans read back from it; and how each
boolean is read from any word, not only an encoded one. -/
def Obligations.ModeWord : Prop :=
  (∀ m : Word,
    (burstMode .bit0 m = true ↔ m.extractLsb' 0 1 = 1) ∧ (burstMode .bit1 m = true ↔ m.extractLsb' 1 1 = 1) ∧
    (burstMode .both m = true ↔ m.extractLsb' 0 2 = 3) ∧ (burstMode .any m = true ↔ m.extractLsb' 0 2 ≠ 0) ∧
    (phaseCoding m = true ↔ m.extractLsb' 2 1 = 1) ∧ (staticEchoFilter m = true ↔ m.extractLsb' 8 1 = 1) ∧
    (gainAuto m = true ↔ m.extractLsb' 9 1 = 1)) ∧
  ∀ b p e a : Bool,
    (encodeMode b p e a).toNat = 3 * b.toNat + 4 * p.toNat + 256 * e.toNat + 512 * a.toNat ∧
    (encodeMode b p e a).toNat ≤ 775 ∧ phaseCoding (encodeMode b p e a) = p ∧
    staticEchoFilter (encodeMode b p e a) = e ∧ gainAuto (encodeMode b p e a) = a ∧
    burstMode .bit0 (encodeMode b p e a) = b ∧ burstMode .bit1 (encodeMode b p e a) = b ∧
    burstMode .both (encodeMode b p e a) = b ∧ burstMode .any (encodeMode b p e a) = b

/-! ### Timestamps -/

/-- 45_timestamp.md R281 (with the span of R282): TS.ENC and its faults, `sec` tested first. -/
def Obligations.TimestampEncode : Prop :=
  ∀ (s : State) (sec ms : Int),
    (-1073741824 ≤ sec → sec ≤ 1073741823 → 0 ≤ ms → ms ≤ 999 → exec (.tsEnc sec ms) s = .next { s with
      tsw0 := BitVec.ofInt 16 (sec / 32768), tsw1 := BitVec.ofInt 16 (sec % 32768), tsw2 := BitVec.ofInt 16 ms
      status := 0 }) ∧
    (sec < -1073741824 ∨ 1073741823 < sec → exec (.tsEnc sec ms) s = .next (s.raise .tsRange 0 0)) ∧
    (-1073741824 ≤ sec → sec ≤ 1073741823 → ms < 0 ∨ 999 < ms → exec (.tsEnc sec ms) s =
      .next (s.raise .tsRange 1 0))

/-- 45_timestamp.md R283, R284: TS.DEC on every triple; canonical words add, a negative second word is the seconds. -/
def Obligations.TimestampDecode : Prop :=
  ∀ (s : State) (w0 w1 w2 : Word), exec (.tsDec w0 w1 w2) s = .next { s with
    tssec := if 0 ≤ w1.toInt then w0.toInt * 32768 + w1.toInt else w1.toInt, tsms := w2.toInt, status := 0 }

/-- 45_timestamp.md R285: exact over the whole span; encoding after decoding gives back exactly the canonical triples. -/
def Obligations.TimestampRoundTrip : Prop :=
  (∀ (s t : State) (sec ms : Int), -1073741824 ≤ sec → sec ≤ 1073741823 → 0 ≤ ms → ms ≤ 999 →
    exec (.tsEnc sec ms) s = .next t →
    ∃ u, exec (.tsDec t.tsw0 t.tsw1 t.tsw2) t = .next u ∧ u.tssec = sec ∧ u.tsms = ms) ∧
  ∀ (s : State) (w0 w1 w2 : Word),
    (∃ t u, exec (.tsDec w0 w1 w2) s = .next t ∧ exec (.tsEnc t.tssec t.tsms) t = .next u ∧ u.status = 0 ∧
      u.tsw0 = w0 ∧ u.tsw1 = w1 ∧ u.tsw2 = w2) ↔ 0 ≤ w1.toInt ∧ 0 ≤ w2.toInt ∧ w2.toInt ≤ 999

/-! ### The profile decoder -/

/-- 46_profile.md R291 to R299: PROF.DEC, every entry of the record by its formula in the exact domain. An amplitude
stands for `scale / sqrt(navg) / 10^(db/20)`, kept symbolic (log entry 13). The sign of `std` is the model's reading:
where the factor is negative (R294, R300) the formula of R291 gives a negative `std`, which R296 calls never negative
(DEDUCED, log entry 26). In either number domain a raw amplitude of 0 gives an amplitude of 0, and a sound speed of 0
gives velocities and stds of 0 (R300; under `binary64` by log entry 12). -/
def Obligations.ProfileDecode : Prop :=
  (∀ (s : State) (pb : List Byte) (k n : Nat), k < s.nSlots → s.slotValid k = true →
    let h := s.slotRegs k
    let W (j : Nat) : Int := (ofOctets (byteAt pb (2 * j)) (byteAt pb (2 * j + 1))).toInt
    sRead h.nVol = n → pb.length = 2 * (11 + 4 * n) → sRead h.cPrf ≠ 0 → 0 < sRead h.nAvg →
    ∃ t, exec (.profDec pb k) s = .next t ∧ t.status = 0 ∧ t.pr.cells.length = n ∧
      ∀ i c, t.pr.cells[i]? = some c →
        (W (13 + 4 * i) = 0 → c.sat = false ∧ c.amp.scale = 0) ∧ (W 6 = 0 → c.vel = 0 ∧ c.std = 0)) ∧
  ∀ (s : State) (pb : List Byte) (k n : Nat), s.cfg.num = .exact → k < s.nSlots → s.slotValid k = true →
    let h := s.slotRegs k
    let W (j : Nat) : Int := (ofOctets (byteAt pb (2 * j)) (byteAt pb (2 * j + 1))).toInt
    sRead h.nVol = n → pb.length = 2 * (11 + 4 * n) → sRead h.cPrf ≠ 0 → 0 < sRead h.nAvg →
    let fv : Rat := (W 6 : Rat) / (sRead h.cPrf * 65535)
    let G := gtab s.cfg n (W 7) (W 8) (sRead h.blindCa0) (sRead h.blindCa1)
    ∃ pr : ProfileRecord, exec (.profDec pb k) s = .next { s with pr := pr, prv := true, gt := G, status := 0 } ∧
      pr.sec = (if 0 ≤ W 1 then W 0 * 32768 + W 1 else W 1) ∧ pr.ms = W 2 ∧
      pr.hdr = ⟨W 3, W 4, W 5, W 6, W 7, W 8, W 9, W 10⟩ ∧ pr.cells.length = n ∧
      ∀ i, i < n → ∃ g, G[i]? = some g ∧ pr.cells[i]? = some
        { vel := W (11 + 4 * i) * fv
          std := ((|W (12 + 4 * i)| : Int) : Rat) * fv
          amp := ⟨((|W (13 + 4 * i)| : Int) : Rat) * (2 * s.cfg.vref / 4096), sRead h.nAvg, g⟩
          snr := W (14 + 4 * i) / 10
          wrap := decide (W (12 + 4 * i) < 0)
          sat := decide (W (13 + 4 * i) < 0) }

/-- The faults of PROF.DEC in their order (46_profile.md R291, R293, R294): nothing is written. -/
def Obligations.ProfileFaults : Prop :=
  ∀ (s : State) (pb : List Byte) (k : Nat),
    let h := s.slotRegs k
    let n := sRead h.nVol
    (s.nSlots ≤ k → exec (.profDec pb k) s = .next (s.raise .badSlot k 0)) ∧
    (k < s.nSlots → s.slotValid k = false → exec (.profDec pb k) s = .next (s.raise .hcNotLoaded k 0)) ∧
    (k < s.nSlots → s.slotValid k = true → n < 0 ∨ (pb.length : Int) ≠ 2 * (11 + 4 * n) → exec (.profDec pb k) s =
      .next (s.raise .profileSize (2 * (11 + 4 * n)) pb.length)) ∧
    (k < s.nSlots → s.slotValid k = true → 0 ≤ n → (pb.length : Int) = 2 * (11 + 4 * n) →
      sRead h.cPrf = 0 ∨ sRead h.nAvg ≤ 0 → exec (.profDec pb k) s = .next (s.raise .divZero 0 0))

end Statements
end

