-- ==== Sys2Proof/Laws/Bytes.lean ====
section
/-! SUPPORT. Octets and words: each is what the other says it is. -/

namespace Sys2Proof.Machine

@[simp] theorem wordsToBytes_length (w : List Word) : (wordsToBytes w).length = 2 * w.length := by
  induction w with
  | nil => rfl
  | cons a w ih => simp [wordsToBytes, ih]; omega

@[simp] theorem ofOctets_hi8_lo8 (w : Word) : ofOctets (hi8 w) (lo8 w) = w := by
  apply BitVec.eq_of_getLsbD_eq
  intro i hi
  simp only [ofOctets, hi8, lo8]
  rw [show BitVec.getLsbD (BitVec.extractLsb' 8 8 w ++ BitVec.extractLsb' 0 8 w) i = _ from BitVec.getLsbD_append]
  simp only [BitVec.getLsbD_extractLsb']
  by_cases h : i < 8
  · simp [h]
  · have : i - 8 < 8 := by omega
    simp [h, this, show 8 + (i - 8) = i by omega]

@[simp] theorem bytesToWords_wordsToBytes (w : List Word) : bytesToWords (wordsToBytes w) = w := by
  induction w with
  | nil => rfl
  | cons a w ih => simp [wordsToBytes, bytesToWords, ih, ofOctets_hi8_lo8]

theorem byteAt_append_left (a b : List Byte) (i : Nat) (h : i < a.length) : byteAt (a ++ b) i = byteAt a i := by
  simp [byteAt, List.getD_eq_getElem?_getD, List.getElem?_append_left h]

theorem byteAt_append_right (a b : List Byte) (i : Nat) : byteAt (a ++ b) (a.length + i) = byteAt b i := by
  simp [byteAt, List.getD_eq_getElem?_getD, List.getElem?_append_right]

end Sys2Proof.Machine
end

