-- ==== Sys2Proof/Laws/Cells.lean ====
section
/-! SUPPORT. The laws of the indexed stores: read after write, the canonical form, index ranges. -/

namespace Sys2Proof.Machine

variable {w : Nat}

theorem cellsRead_below (c : Cells w) (i : Nat) : ∀ lo, cellsWfFrom lo c = true → i < lo → cellsRead c i = 0#w := by
  induction c with
  | nil => intro lo _ _; rfl
  | cons x c ih =>
    obtain ⟨j, u⟩ := x
    intro lo hw hi
    simp only [cellsWfFrom, Bool.and_eq_true, decide_eq_true_eq] at hw
    simp only [cellsRead]
    rw [if_neg (by omega)]
    exact ih (j + 1) hw.2 (by omega)

theorem cellsRead_writeFrom (c : Cells w) (i : Nat) (v : BitVec w) :
    ∀ lo, cellsWfFrom lo c = true → cellsRead (cellsWrite c i v) i = v := by
  induction c with
  | nil => intro lo _; by_cases hv : v = 0#w <;> simp [cellsWrite, cellsRead, hv]
  | cons x c ih =>
    obtain ⟨j, u⟩ := x
    intro lo hw
    simp only [cellsWfFrom, Bool.and_eq_true, decide_eq_true_eq] at hw
    simp only [cellsWrite]
    by_cases hij : i < j
    · by_cases hv : v = 0#w
      · rw [if_pos hij, if_pos hv, hv]
        simp only [cellsRead]
        rw [if_neg (by omega)]
        exact cellsRead_below c i (j + 1) hw.2 (by omega)
      · simp [hij, hv, cellsRead]
    · by_cases he : i = j
      · rw [if_neg hij, if_pos he]
        by_cases hv : v = 0#w
        · rw [if_pos hv, hv]; exact cellsRead_below c i (j + 1) hw.2 (by omega)
        · simp [hv, cellsRead]
      · rw [if_neg hij, if_neg he]
        simp only [cellsRead]
        rw [if_neg he]
        exact ih (j + 1) hw.2

/-- Reading an index just written gives the value written. -/
theorem cellsRead_write_same (c : Cells w) (i : Nat) (v : BitVec w) (h : cellsWf c = true) :
    cellsRead (cellsWrite c i v) i = v := cellsRead_writeFrom c i v 0 h

theorem cellsRead_write_other (c : Cells w) (i k : Nat) (v : BitVec w) (h : k ≠ i) :
    cellsRead (cellsWrite c i v) k = cellsRead c k := by
  induction c with
  | nil => by_cases hv : v = 0#w <;> simp [cellsWrite, cellsRead, hv, h]
  | cons x c ih =>
    obtain ⟨j, u⟩ := x
    simp only [cellsWrite]
    by_cases hij : i < j
    · by_cases hv : v = 0#w <;> simp [hij, hv, cellsRead, h]
    · by_cases he : i = j
      · subst he
        by_cases hv : v = 0#w <;> simp [hv, cellsRead, h]
      · simp [hij, he, cellsRead, ih]

theorem cellsWfFrom_mono (c : Cells w) (a b : Nat) (hab : a ≤ b) (h : cellsWfFrom b c = true) :
    cellsWfFrom a c = true := by
  cases c with
  | nil => rfl
  | cons x c =>
    simp only [cellsWfFrom, Bool.and_eq_true, decide_eq_true_eq] at h ⊢
    exact ⟨⟨by omega, h.1.2⟩, h.2⟩

theorem cellsWfFrom_write (c : Cells w) (i : Nat) (v : BitVec w) :
    ∀ lo, lo ≤ i → cellsWfFrom lo c = true → cellsWfFrom lo (cellsWrite c i v) = true := by
  induction c with
  | nil => intro lo hi _; by_cases hv : v = 0#w <;> simp [cellsWrite, cellsWfFrom, hv, hi]
  | cons x c ih =>
    obtain ⟨j, u⟩ := x
    intro lo hi hw
    have hw' := hw
    simp only [cellsWfFrom, Bool.and_eq_true, decide_eq_true_eq] at hw
    simp only [cellsWrite]
    by_cases hij : i < j
    · by_cases hv : v = 0#w
      · simpa [hij, hv] using hw'
      · simp [hij, hv, cellsWfFrom, hi, hw.1.2, hw.2, Nat.succ_le_of_lt hij]
    · by_cases he : i = j
      · subst he
        by_cases hv : v = 0#w
        · simpa [hv] using cellsWfFrom_mono c lo (i + 1) (by omega) hw.2
        · simp [hv, cellsWfFrom, hi, hw.2]
      · have hih := ih (j + 1) (by omega) hw.2
        simp [hij, he, cellsWfFrom, hw.1.1, hw.1.2, hih]

/-- A write keeps the canonical form. -/
theorem cellsWf_write (c : Cells w) (i : Nat) (v : BitVec w) (h : cellsWf c = true) :
    cellsWf (cellsWrite c i v) = true :=
  cellsWfFrom_write c i v 0 (Nat.zero_le i) h

/-- Writing consecutive indices keeps the canonical form. -/
theorem cellsWf_writeAll (vs : List (BitVec w)) : ∀ (c : Cells w) (i : Nat), cellsWf c = true →
    cellsWf (cellsWriteAll c i vs) = true := by
  induction vs with
  | nil => intro c i h; exact h
  | cons v vs ih => intro c i h; exact ih _ _ (cellsWf_write c i v h)

/-- The stores at reset are canonical. -/
theorem cellsWf_reset : cellsWf State.reset.rdb = true ∧ Memory.wf State.reset.errbuf = true := ⟨rfl, rfl⟩

theorem cellsWrite_index_lt (c : Cells w) (i : Nat) (v : BitVec w) (b : Nat) (hi : i < b) (hc : ∀ x ∈ c, x.1 < b) :
    ∀ x ∈ cellsWrite c i v, x.1 < b := by
  induction c with
  | nil => by_cases hv : v = 0#w <;> simp [cellsWrite, hv, hi]
  | cons x c ih =>
    obtain ⟨j, u⟩ := x
    have hj : j < b := hc (j, u) (by simp)
    have ht : ∀ x ∈ c, x.1 < b := fun y hy => hc y (by simp [hy])
    simp only [cellsWrite]
    by_cases hij : i < j
    · by_cases hv : v = 0#w
      · simpa [hij, hv] using ⟨hj, fun a b h => ht _ h⟩
      · simpa [hij, hv] using ⟨hi, hj, fun a b h => ht _ h⟩
    · by_cases he : i = j
      · by_cases hv : v = 0#w
        · simpa [he, hv] using fun a b h => ht (a, b) h
        · simpa [he, hv] using ⟨hj, fun a b h => ht _ h⟩
      · simpa [hij, he] using ⟨hj, fun a b h => ih ht _ h⟩

/-- Writes below a bound leave every index below it. -/
theorem cellsWriteAll_index_lt (b : Nat) (vs : List (BitVec w)) : ∀ (c : Cells w) (i : Nat), i + vs.length ≤ b →
    (∀ x ∈ c, x.1 < b) → ∀ x ∈ cellsWriteAll c i vs, x.1 < b := by
  induction vs with
  | nil => intro c i _ hc; exact hc
  | cons v vs ih =>
    intro c i hi hc
    simp only [List.length_cons] at hi
    exact ih _ _ (by omega) (cellsWrite_index_lt c i v b (by omega) hc)

theorem cellsRead_writeAll_other (vs : List (BitVec w)) : ∀ (c : Cells w) (i k : Nat), k < i ∨ i + vs.length ≤ k →
    cellsRead (cellsWriteAll c i vs) k = cellsRead c k := by
  induction vs with
  | nil => intro c i k _; rfl
  | cons v vs ih =>
    intro c i k hk
    simp only [List.length_cons] at hk
    simp only [cellsWriteAll]
    rw [ih _ _ _ (by omega), cellsRead_write_other _ _ _ _ (by omega)]

/-- Reading an index that a block write covered gives the value written there. -/
theorem cellsRead_writeAll (vs : List (BitVec w)) : ∀ (c : Cells w) (i k : Nat), cellsWf c = true → k < vs.length →
    cellsRead (cellsWriteAll c i vs) (i + k) = vs.getD k 0 := by
  induction vs with
  | nil => intro c i k _ hk; simp at hk
  | cons v vs ih =>
    intro c i k hc hk
    simp only [cellsWriteAll]
    cases k with
    | zero =>
      rw [cellsRead_writeAll_other _ _ _ _ (by omega)]
      simpa using cellsRead_write_same c i v hc
    | succ k =>
      have := ih (cellsWrite c i v) (i + 1) k (cellsWf_write c i v hc) (by simpa using hk)
      rw [show i + (k + 1) = i + 1 + k by omega, this]
      simp

end Sys2Proof.Machine
end

