-- ==== Sys2Proof/Laws/Codec.lean ====
section
/-! SUPPORT. Each operand reader reads back what the encoder writes, whatever follows it. -/

namespace Sys2Proof

open Machine

/-- The reader reads exactly these bytes as this value. -/
abbrev Reads {α : Type} (p : Reader α) (bytes : List Byte) (x : α) : Prop := ∀ rest, p (bytes ++ rest) = some (x, rest)

theorem reads_pure {α : Type} (x : α) : Reads (pure x) [] x := fun _ => rfl

theorem reads_bind {α β : Type} {p : Reader α} {f : α → Reader β} {a b : List Byte} {x : α} {y : β} (hp : Reads p a x)
    (hf : Reads (f x) b y) : Reads (p >>= f) (a ++ b) y := by
  intro rest
  show (p >>= f) (a ++ b ++ rest) = _
  rw [List.append_assoc]
  simp only [bind, StateT.bind, hp (b ++ rest), Option.bind_some, hf rest]

/-- The last reader of a record. -/
theorem reads_map {α β : Type} {p : Reader α} {f : α → β} {a : List Byte} {x : α} (hp : Reads p a x) :
    Reads (do return f (← p)) a (f x) := by
  simpa using reads_bind (f := fun a => pure (f a)) hp (reads_pure (f x))

theorem reads_byte (b : Byte) : Reads readByte [b] b := fun _ => rfl

theorem reads_word (w : Word) : Reads readWord (be16 w) w := by
  intro rest
  simp [readWord, be16]

theorem reads_natFuel (fuel : Nat) : ∀ n, n ≤ fuel → Reads readNat (natBytesFuel fuel n) n := by
  induction fuel with
  | zero =>
    intro n hn rest
    obtain rfl : n = 0 := by omega
    rfl
  | succ fuel ih =>
    intro n hn rest
    unfold natBytesFuel
    by_cases h : n < 128
    · have h1 : (BitVec.ofNat 8 n).toNat = n := by simp; omega
      simp only [if_pos h, List.cons_append, List.nil_append, readNat, h1]
    · have h1 : (BitVec.ofNat 8 (n % 128 + 128)).toNat = n % 128 + 128 := by simp; omega
      simp only [if_neg h, List.cons_append, readNat, h1, ih (n / 128) (by omega) rest]
      rw [if_neg (by omega)]
      simp only [Option.some.injEq, Prod.mk.injEq, and_true]
      omega

theorem reads_nat (n : Nat) : Reads readNat (natBytes n) n := reads_natFuel n n le_rfl

theorem reads_bits {w : Nat} (v : BitVec w) : Reads (readBits w) (natBytes v.toNat) v := by
  intro rest
  simp [readBits, reads_nat v.toNat rest, v.isLt]

theorem unzigzag_zigzag (z : Int) : unzigzag (zigzag z) = z := by
  unfold unzigzag zigzag
  by_cases h : 0 ≤ z
  · rw [if_pos h, if_pos (by omega)]; omega
  · rw [if_neg h, if_neg (by omega)]; omega

theorem reads_int (z : Int) : Reads readInt (intBytes z) z := by
  have := reads_map (f := unzigzag) (reads_nat (zigzag z))
  rwa [unzigzag_zigzag] at this

theorem reads_rat (q : Rat) : Reads readRat (ratBytes q) q := by
  have h := reads_bind (f := fun n => (do return mkRat n ((← readNat) + 1))) (reads_int q.num)
    (reads_map (f := fun d => mkRat q.num (d + 1)) (reads_nat (q.den - 1)))
  have hd : q.den - 1 + 1 = q.den := Nat.sub_add_cancel q.den_pos
  rw [hd, Rat.mkRat_self] at h
  exact h

theorem reads_bool (b : Bool) : Reads readBool (boolBytes b) b := by
  intro rest
  cases b <;> rfl

theorem reads_manyBytes (d : List Byte) : Reads (readMany readByte d.length) d d := by
  induction d with
  | nil => exact reads_pure _
  | cons b d ih => exact reads_bind (a := [b]) (reads_byte b) (reads_map ih)

theorem reads_byteList (d : List Byte) : Reads (readList readByte) (byteListBytes d) d :=
  reads_bind (reads_nat d.length) (reads_manyBytes d)

theorem reads_manyWords (v : List Word) : Reads (readMany readWord v.length) (wordsToBytes v) v := by
  induction v with
  | nil => exact reads_pure _
  | cons w v ih => exact reads_bind (a := be16 w) (reads_word w) (reads_map ih)

theorem reads_wordList (v : List Word) : Reads (readList readWord) (wordListBytes v) v :=
  reads_bind (reads_nat v.length) (reads_manyWords v)

theorem reads_none {α : Type} (p : Reader α) : Reads (readOption p) [0] none := fun _ => rfl

theorem reads_some {α : Type} {p : Reader α} {a : List Byte} {x : α} (hp : Reads p a x) :
    Reads (readOption p) (1 :: a) (some x) :=
  reads_bind (a := [1]) (f := fun b => if b = true then (do return some (← p)) else return none) (reads_bool true)
    (reads_map hp)

theorem reads_tmo (t : Option Rat) : Reads (readOption readRat) (tmoBytes t) t := by
  cases t with
  | none => exact reads_none _
  | some q => exact reads_some (reads_rat q)

theorem reads_blind (b : Option BlindLimits) : Reads (readOption readBlind) (blindBytes b) b := by
  cases b with
  | none => exact reads_none _
  | some b => exact reads_some (reads_bind (reads_rat b.a0Max) (reads_map (reads_rat b.a1Max)))

theorem reads_acoustic (a : AcousticConfig) : Reads readAcoustic (acousticBytes a) a := by
  unfold acousticBytes readAcoustic
  simp only [List.append_assoc]
  refine reads_bind (reads_rat _) (reads_bind (reads_rat _) (reads_bind (reads_int _) (reads_bind (reads_rat _) ?_)))
  refine reads_bind (reads_rat _) (reads_bind (reads_rat _) (reads_bind (reads_int _) (reads_bind (reads_rat _) ?_)))
  refine reads_bind (reads_rat _) (reads_bind (reads_bool _) (reads_bind (reads_bool _) (reads_bind (reads_bool _) ?_)))
  refine reads_bind (reads_bool _) (reads_bind (reads_int _) ?_)
  exact reads_map (f := fun v => (⟨a.f0, a.prf, a.nEch, a.rEm, a.rVol1, a.rDvol, a.nVol, a.gainA0, a.gainA1, a.gainAuto,
    a.staticEchoFilter, a.phaseCoding, a.burstMode, a.nAvg, v⟩ : AcousticConfig)) (reads_rat _)

/-- A command whose operand record its reader reads back decodes to the instruction. -/
theorem decodeCommand_reads {op : Byte} {p : Reader Instr} {bytes : List Byte} {i : Instr}
    (hop : operandReader op.toNat = some p) (h : Reads p bytes i) : decodeCommand (op :: bytes) = .ok i := by
  have := h []
  rw [List.append_nil] at this
  simp only [decodeCommand, hop, this]

end Sys2Proof
end

