-- ==== Sys2Proof/Laws/State.lean ====
section
/-! SUPPORT. What each named update of the state does to each field, so that no proof unfolds a record update. -/

namespace Sys2Proof.Machine

/-! ### `State.raise` -/

@[simp] theorem State.raise_cfg (s : State) (c : Cause) (i0 i1 : Int) : (s.raise c i0 i1).cfg = s.cfg := rfl
@[simp] theorem State.raise_crcr (s : State) (c : Cause) (i0 i1 : Int) : (s.raise c i0 i1).crcr = s.crcr := rfl
@[simp] theorem State.raise_hc (s : State) (c : Cause) (i0 i1 : Int) : (s.raise c i0 i1).hc = s.hc := rfl
@[simp] theorem State.raise_tmo (s : State) (c : Cause) (i0 i1 : Int) : (s.raise c i0 i1).tmo = s.tmo := rfl
@[simp] theorem State.raise_link (s : State) (c : Cause) (i0 i1 : Int) : (s.raise c i0 i1).link = s.link := rfl
@[simp] theorem State.raise_busy (s : State) (c : Cause) (i0 i1 : Int) : (s.raise c i0 i1).busy = false := rfl
@[simp] theorem State.raise_status (s : State) (c : Cause) (i0 i1 : Int) : (s.raise c i0 i1).status = c.status := rfl
@[simp] theorem State.raise_fsticky (s : State) (c : Cause) (i0 i1 : Int) : (s.raise c i0 i1).fsticky = s.fsticky |||
    c.kind.stickyBit := rfl
@[simp] theorem State.raise_info0 (s : State) (c : Cause) (i0 i1 : Int) : (s.raise c i0 i1).info0 = BitVec.ofInt 32 i0
    := rfl
@[simp] theorem State.raise_info1 (s : State) (c : Cause) (i0 i1 : Int) : (s.raise c i0 i1).info1 = BitVec.ofInt 32 i1
    := rfl
@[simp] theorem State.raise_errfunc (s : State) (c : Cause) (i0 i1 : Int) : (s.raise c i0 i1).errfunc = s.errfunc := rfl
@[simp] theorem State.raise_errlen (s : State) (c : Cause) (i0 i1 : Int) : (s.raise c i0 i1).errlen = s.errlen := rfl
@[simp] theorem State.raise_echoaddr (s : State) (c : Cause) (i0 i1 : Int) : (s.raise c i0 i1).echoaddr = s.echoaddr
    := rfl
@[simp] theorem State.raise_echocnt (s : State) (c : Cause) (i0 i1 : Int) : (s.raise c i0 i1).echocnt = s.echocnt := rfl
@[simp] theorem State.raise_rdcnt (s : State) (c : Cause) (i0 i1 : Int) : (s.raise c i0 i1).rdcnt = s.rdcnt := rfl
@[simp] theorem State.raise_segcnt (s : State) (c : Cause) (i0 i1 : Int) : (s.raise c i0 i1).segcnt = s.segcnt := rfl
@[simp] theorem State.raise_seq (s : State) (c : Cause) (i0 i1 : Int) : (s.raise c i0 i1).seq = .idle := rfl
@[simp] theorem State.raise_cur (s : State) (c : Cause) (i0 i1 : Int) : (s.raise c i0 i1).cur = s.cur := rfl
@[simp] theorem State.raise_rem (s : State) (c : Cause) (i0 i1 : Int) : (s.raise c i0 i1).rem = s.rem := rfl
@[simp] theorem State.raise_rxacc (s : State) (c : Cause) (i0 i1 : Int) : (s.raise c i0 i1).rxacc = s.rxacc := rfl
@[simp] theorem State.raise_errbuf (s : State) (c : Cause) (i0 i1 : Int) : (s.raise c i0 i1).errbuf = s.errbuf := rfl
@[simp] theorem State.raise_rdb (s : State) (c : Cause) (i0 i1 : Int) : (s.raise c i0 i1).rdb = s.rdb := rfl
@[simp] theorem State.raise_gt (s : State) (c : Cause) (i0 i1 : Int) : (s.raise c i0 i1).gt = s.gt := rfl
@[simp] theorem State.raise_ucr (s : State) (c : Cause) (i0 i1 : Int) : (s.raise c i0 i1).ucr = s.ucr := rfl
@[simp] theorem State.raise_bdur (s : State) (c : Cause) (i0 i1 : Int) : (s.raise c i0 i1).bdur = s.bdur := rfl
@[simp] theorem State.raise_rl (s : State) (c : Cause) (i0 i1 : Int) : (s.raise c i0 i1).rl = s.rl := rfl
@[simp] theorem State.raise_eqf (s : State) (c : Cause) (i0 i1 : Int) : (s.raise c i0 i1).eqf = s.eqf := rfl
@[simp] theorem State.raise_tsw0 (s : State) (c : Cause) (i0 i1 : Int) : (s.raise c i0 i1).tsw0 = s.tsw0 := rfl
@[simp] theorem State.raise_tsw1 (s : State) (c : Cause) (i0 i1 : Int) : (s.raise c i0 i1).tsw1 = s.tsw1 := rfl
@[simp] theorem State.raise_tsw2 (s : State) (c : Cause) (i0 i1 : Int) : (s.raise c i0 i1).tsw2 = s.tsw2 := rfl
@[simp] theorem State.raise_tssec (s : State) (c : Cause) (i0 i1 : Int) : (s.raise c i0 i1).tssec = s.tssec := rfl
@[simp] theorem State.raise_tsms (s : State) (c : Cause) (i0 i1 : Int) : (s.raise c i0 i1).tsms = s.tsms := rfl
@[simp] theorem State.raise_scr (s : State) (c : Cause) (i0 i1 : Int) : (s.raise c i0 i1).scr = s.scr := rfl
@[simp] theorem State.raise_pr (s : State) (c : Cause) (i0 i1 : Int) : (s.raise c i0 i1).pr = s.pr := rfl
@[simp] theorem State.raise_prv (s : State) (c : Cause) (i0 i1 : Int) : (s.raise c i0 i1).prv = s.prv := rfl
@[simp] theorem State.raise_pend (s : State) (c : Cause) (i0 i1 : Int) : (s.raise c i0 i1).pend = none := rfl
@[simp] theorem State.raise_inbox (s : State) (c : Cause) (i0 i1 : Int) : (s.raise c i0 i1).inbox = s.inbox := rfl
@[simp] theorem State.raise_sent (s : State) (c : Cause) (i0 i1 : Int) : (s.raise c i0 i1).sent = s.sent := rfl
@[simp] theorem State.raise_env (s : State) (c : Cause) (i0 i1 : Int) : (s.raise c i0 i1).env = s.env := rfl
@[simp] theorem State.raise_draws (s : State) (c : Cause) (i0 i1 : Int) : (s.raise c i0 i1).draws = s.draws := rfl

/-! ### `State.loadSlot` -/

@[simp] theorem State.loadSlot_cfg (s : State) (i : Nat) (h : HwConfig) : (s.loadSlot i h).cfg = s.cfg := rfl
@[simp] theorem State.loadSlot_crcr (s : State) (i : Nat) (h : HwConfig) : (s.loadSlot i h).crcr = s.crcr := rfl
@[simp] theorem State.loadSlot_hc (s : State) (i : Nat) (h : HwConfig) : (s.loadSlot i h).hc = s.hc.set i ⟨true,
    h⟩ := rfl
@[simp] theorem State.loadSlot_tmo (s : State) (i : Nat) (h : HwConfig) : (s.loadSlot i h).tmo = s.tmo := rfl
@[simp] theorem State.loadSlot_link (s : State) (i : Nat) (h : HwConfig) : (s.loadSlot i h).link = s.link := rfl
@[simp] theorem State.loadSlot_busy (s : State) (i : Nat) (h : HwConfig) : (s.loadSlot i h).busy = s.busy := rfl
@[simp] theorem State.loadSlot_status (s : State) (i : Nat) (h : HwConfig) : (s.loadSlot i h).status = s.status := rfl
@[simp] theorem State.loadSlot_fsticky (s : State) (i : Nat) (h : HwConfig) : (s.loadSlot i h).fsticky = s.fsticky :=
    rfl
@[simp] theorem State.loadSlot_info0 (s : State) (i : Nat) (h : HwConfig) : (s.loadSlot i h).info0 = s.info0 := rfl
@[simp] theorem State.loadSlot_info1 (s : State) (i : Nat) (h : HwConfig) : (s.loadSlot i h).info1 = s.info1 := rfl
@[simp] theorem State.loadSlot_errfunc (s : State) (i : Nat) (h : HwConfig) : (s.loadSlot i h).errfunc = s.errfunc :=
    rfl
@[simp] theorem State.loadSlot_errlen (s : State) (i : Nat) (h : HwConfig) : (s.loadSlot i h).errlen = s.errlen := rfl
@[simp] theorem State.loadSlot_echoaddr (s : State) (i : Nat) (h : HwConfig) : (s.loadSlot i h).echoaddr = s.echoaddr
    := rfl
@[simp] theorem State.loadSlot_echocnt (s : State) (i : Nat) (h : HwConfig) : (s.loadSlot i h).echocnt = s.echocnt :=
    rfl
@[simp] theorem State.loadSlot_rdcnt (s : State) (i : Nat) (h : HwConfig) : (s.loadSlot i h).rdcnt = s.rdcnt := rfl
@[simp] theorem State.loadSlot_segcnt (s : State) (i : Nat) (h : HwConfig) : (s.loadSlot i h).segcnt = s.segcnt := rfl
@[simp] theorem State.loadSlot_seq (s : State) (i : Nat) (h : HwConfig) : (s.loadSlot i h).seq = s.seq := rfl
@[simp] theorem State.loadSlot_cur (s : State) (i : Nat) (h : HwConfig) : (s.loadSlot i h).cur = s.cur := rfl
@[simp] theorem State.loadSlot_rem (s : State) (i : Nat) (h : HwConfig) : (s.loadSlot i h).rem = s.rem := rfl
@[simp] theorem State.loadSlot_rxacc (s : State) (i : Nat) (h : HwConfig) : (s.loadSlot i h).rxacc = s.rxacc := rfl
@[simp] theorem State.loadSlot_errbuf (s : State) (i : Nat) (h : HwConfig) : (s.loadSlot i h).errbuf = s.errbuf := rfl
@[simp] theorem State.loadSlot_rdb (s : State) (i : Nat) (h : HwConfig) : (s.loadSlot i h).rdb = s.rdb := rfl
@[simp] theorem State.loadSlot_gt (s : State) (i : Nat) (h : HwConfig) : (s.loadSlot i h).gt = s.gt := rfl
@[simp] theorem State.loadSlot_ucr (s : State) (i : Nat) (h : HwConfig) : (s.loadSlot i h).ucr = s.ucr := rfl
@[simp] theorem State.loadSlot_bdur (s : State) (i : Nat) (h : HwConfig) : (s.loadSlot i h).bdur = s.bdur := rfl
@[simp] theorem State.loadSlot_rl (s : State) (i : Nat) (h : HwConfig) : (s.loadSlot i h).rl = s.rl := rfl
@[simp] theorem State.loadSlot_eqf (s : State) (i : Nat) (h : HwConfig) : (s.loadSlot i h).eqf = s.eqf := rfl
@[simp] theorem State.loadSlot_tsw0 (s : State) (i : Nat) (h : HwConfig) : (s.loadSlot i h).tsw0 = s.tsw0 := rfl
@[simp] theorem State.loadSlot_tsw1 (s : State) (i : Nat) (h : HwConfig) : (s.loadSlot i h).tsw1 = s.tsw1 := rfl
@[simp] theorem State.loadSlot_tsw2 (s : State) (i : Nat) (h : HwConfig) : (s.loadSlot i h).tsw2 = s.tsw2 := rfl
@[simp] theorem State.loadSlot_tssec (s : State) (i : Nat) (h : HwConfig) : (s.loadSlot i h).tssec = s.tssec := rfl
@[simp] theorem State.loadSlot_tsms (s : State) (i : Nat) (h : HwConfig) : (s.loadSlot i h).tsms = s.tsms := rfl
@[simp] theorem State.loadSlot_scr (s : State) (i : Nat) (h : HwConfig) : (s.loadSlot i h).scr = s.scr := rfl
@[simp] theorem State.loadSlot_pr (s : State) (i : Nat) (h : HwConfig) : (s.loadSlot i h).pr = s.pr := rfl
@[simp] theorem State.loadSlot_prv (s : State) (i : Nat) (h : HwConfig) : (s.loadSlot i h).prv = s.prv := rfl
@[simp] theorem State.loadSlot_pend (s : State) (i : Nat) (h : HwConfig) : (s.loadSlot i h).pend = s.pend := rfl
@[simp] theorem State.loadSlot_inbox (s : State) (i : Nat) (h : HwConfig) : (s.loadSlot i h).inbox = s.inbox := rfl
@[simp] theorem State.loadSlot_sent (s : State) (i : Nat) (h : HwConfig) : (s.loadSlot i h).sent = s.sent := rfl
@[simp] theorem State.loadSlot_env (s : State) (i : Nat) (h : HwConfig) : (s.loadSlot i h).env = s.env := rfl
@[simp] theorem State.loadSlot_draws (s : State) (i : Nat) (h : HwConfig) : (s.loadSlot i h).draws = s.draws := rfl

/-! ### `State.rxDone` -/

@[simp] theorem State.rxDone_cfg (s : State) (free : Bool) (acc : List Byte) (rest : List RxStep) : (s.rxDone free acc
    rest).cfg = s.cfg := rfl
@[simp] theorem State.rxDone_crcr (s : State) (free : Bool) (acc : List Byte) (rest : List RxStep) : (s.rxDone free
    acc rest).crcr = s.crcr := rfl
@[simp] theorem State.rxDone_hc (s : State) (free : Bool) (acc : List Byte) (rest : List RxStep) : (s.rxDone free acc
    rest).hc = s.hc := rfl
@[simp] theorem State.rxDone_tmo (s : State) (free : Bool) (acc : List Byte) (rest : List RxStep) : (s.rxDone free acc
    rest).tmo = s.tmo := rfl
@[simp] theorem State.rxDone_link (s : State) (free : Bool) (acc : List Byte) (rest : List RxStep) : (s.rxDone free
    acc rest).link = s.link := rfl
@[simp] theorem State.rxDone_busy (s : State) (free : Bool) (acc : List Byte) (rest : List RxStep) : (s.rxDone free
    acc rest).busy = s.busy := rfl
@[simp] theorem State.rxDone_status (s : State) (free : Bool) (acc : List Byte) (rest : List RxStep) : (s.rxDone free
    acc rest).status = s.status := rfl
@[simp] theorem State.rxDone_fsticky (s : State) (free : Bool) (acc : List Byte) (rest : List RxStep) : (s.rxDone free
    acc rest).fsticky = s.fsticky := rfl
@[simp] theorem State.rxDone_info0 (s : State) (free : Bool) (acc : List Byte) (rest : List RxStep) : (s.rxDone free
    acc rest).info0 = s.info0 := rfl
@[simp] theorem State.rxDone_info1 (s : State) (free : Bool) (acc : List Byte) (rest : List RxStep) : (s.rxDone free
    acc rest).info1 = s.info1 := rfl
@[simp] theorem State.rxDone_errfunc (s : State) (free : Bool) (acc : List Byte) (rest : List RxStep) : (s.rxDone free
    acc rest).errfunc = s.errfunc := rfl
@[simp] theorem State.rxDone_errlen (s : State) (free : Bool) (acc : List Byte) (rest : List RxStep) : (s.rxDone free
    acc rest).errlen = s.errlen := rfl
@[simp] theorem State.rxDone_echoaddr (s : State) (free : Bool) (acc : List Byte) (rest : List RxStep) : (s.rxDone
    free acc rest).echoaddr = s.echoaddr := rfl
@[simp] theorem State.rxDone_echocnt (s : State) (free : Bool) (acc : List Byte) (rest : List RxStep) : (s.rxDone free
    acc rest).echocnt = s.echocnt := rfl
@[simp] theorem State.rxDone_rdcnt (s : State) (free : Bool) (acc : List Byte) (rest : List RxStep) : (s.rxDone free
    acc rest).rdcnt = s.rdcnt := rfl
@[simp] theorem State.rxDone_segcnt (s : State) (free : Bool) (acc : List Byte) (rest : List RxStep) : (s.rxDone free
    acc rest).segcnt = s.segcnt := rfl
@[simp] theorem State.rxDone_seq (s : State) (free : Bool) (acc : List Byte) (rest : List RxStep) : (s.rxDone free acc
    rest).seq = s.seq := rfl
@[simp] theorem State.rxDone_cur (s : State) (free : Bool) (acc : List Byte) (rest : List RxStep) : (s.rxDone free acc
    rest).cur = s.cur := rfl
@[simp] theorem State.rxDone_rem (s : State) (free : Bool) (acc : List Byte) (rest : List RxStep) : (s.rxDone free acc
    rest).rem = s.rem := rfl
@[simp] theorem State.rxDone_rxacc (s : State) (free : Bool) (acc : List Byte) (rest : List RxStep) : (s.rxDone free
    acc rest).rxacc = accumulate s.rxacc acc := rfl
@[simp] theorem State.rxDone_errbuf (s : State) (free : Bool) (acc : List Byte) (rest : List RxStep) : (s.rxDone free
    acc rest).errbuf = s.errbuf := rfl
@[simp] theorem State.rxDone_rdb (s : State) (free : Bool) (acc : List Byte) (rest : List RxStep) : (s.rxDone free acc
    rest).rdb = s.rdb := rfl
@[simp] theorem State.rxDone_gt (s : State) (free : Bool) (acc : List Byte) (rest : List RxStep) : (s.rxDone free acc
    rest).gt = s.gt := rfl
@[simp] theorem State.rxDone_ucr (s : State) (free : Bool) (acc : List Byte) (rest : List RxStep) : (s.rxDone free acc
    rest).ucr = s.ucr := rfl
@[simp] theorem State.rxDone_bdur (s : State) (free : Bool) (acc : List Byte) (rest : List RxStep) : (s.rxDone free
    acc rest).bdur = s.bdur := rfl
@[simp] theorem State.rxDone_rl (s : State) (free : Bool) (acc : List Byte) (rest : List RxStep) : (s.rxDone free acc
    rest).rl = s.rl := rfl
@[simp] theorem State.rxDone_eqf (s : State) (free : Bool) (acc : List Byte) (rest : List RxStep) : (s.rxDone free acc
    rest).eqf = s.eqf := rfl
@[simp] theorem State.rxDone_tsw0 (s : State) (free : Bool) (acc : List Byte) (rest : List RxStep) : (s.rxDone free
    acc rest).tsw0 = s.tsw0 := rfl
@[simp] theorem State.rxDone_tsw1 (s : State) (free : Bool) (acc : List Byte) (rest : List RxStep) : (s.rxDone free
    acc rest).tsw1 = s.tsw1 := rfl
@[simp] theorem State.rxDone_tsw2 (s : State) (free : Bool) (acc : List Byte) (rest : List RxStep) : (s.rxDone free
    acc rest).tsw2 = s.tsw2 := rfl
@[simp] theorem State.rxDone_tssec (s : State) (free : Bool) (acc : List Byte) (rest : List RxStep) : (s.rxDone free
    acc rest).tssec = s.tssec := rfl
@[simp] theorem State.rxDone_tsms (s : State) (free : Bool) (acc : List Byte) (rest : List RxStep) : (s.rxDone free
    acc rest).tsms = s.tsms := rfl
@[simp] theorem State.rxDone_scr (s : State) (free : Bool) (acc : List Byte) (rest : List RxStep) : (s.rxDone free acc
    rest).scr = s.scr := rfl
@[simp] theorem State.rxDone_pr (s : State) (free : Bool) (acc : List Byte) (rest : List RxStep) : (s.rxDone free acc
    rest).pr = s.pr := rfl
@[simp] theorem State.rxDone_prv (s : State) (free : Bool) (acc : List Byte) (rest : List RxStep) : (s.rxDone free acc
    rest).prv = s.prv := rfl
@[simp] theorem State.rxDone_pend (s : State) (free : Bool) (acc : List Byte) (rest : List RxStep) : (s.rxDone free
    acc rest).pend = s.pend := rfl
@[simp] theorem State.rxDone_inbox (s : State) (free : Bool) (acc : List Byte) (rest : List RxStep) : (s.rxDone free
    acc rest).inbox = s.inbox := rfl
@[simp] theorem State.rxDone_sent (s : State) (free : Bool) (acc : List Byte) (rest : List RxStep) : (s.rxDone free
    acc rest).sent = s.sent := rfl
@[simp] theorem State.rxDone_env (s : State) (free : Bool) (acc : List Byte) (rest : List RxStep) : (s.rxDone free acc
    rest).env = { s.env with rx := rest } := rfl
@[simp] theorem State.rxDone_draws (s : State) (free : Bool) (acc : List Byte) (rest : List RxStep) : (s.rxDone free
    acc rest).draws = (if free then s.draws + 1 else s.draws) := rfl

/-! ### `State.readFailed` -/

@[simp] theorem State.readFailed_cfg (s : State) : (s.readFailed).cfg = s.cfg := rfl
@[simp] theorem State.readFailed_crcr (s : State) : (s.readFailed).crcr = s.crcr := rfl
@[simp] theorem State.readFailed_hc (s : State) : (s.readFailed).hc = s.hc := rfl
@[simp] theorem State.readFailed_tmo (s : State) : (s.readFailed).tmo = s.tmo := rfl
@[simp] theorem State.readFailed_link (s : State) : (s.readFailed).link = s.link := rfl
@[simp] theorem State.readFailed_busy (s : State) : (s.readFailed).busy = s.busy := rfl
@[simp] theorem State.readFailed_status (s : State) : (s.readFailed).status = s.status := rfl
@[simp] theorem State.readFailed_fsticky (s : State) : (s.readFailed).fsticky = s.fsticky := rfl
@[simp] theorem State.readFailed_info0 (s : State) : (s.readFailed).info0 = s.info0 := rfl
@[simp] theorem State.readFailed_info1 (s : State) : (s.readFailed).info1 = s.info1 := rfl
@[simp] theorem State.readFailed_errfunc (s : State) : (s.readFailed).errfunc = s.errfunc := rfl
@[simp] theorem State.readFailed_errlen (s : State) : (s.readFailed).errlen = s.errlen := rfl
@[simp] theorem State.readFailed_echoaddr (s : State) : (s.readFailed).echoaddr = s.echoaddr := rfl
@[simp] theorem State.readFailed_echocnt (s : State) : (s.readFailed).echocnt = s.echocnt := rfl
@[simp] theorem State.readFailed_rdcnt (s : State) : (s.readFailed).rdcnt = 0 := rfl
@[simp] theorem State.readFailed_segcnt (s : State) : (s.readFailed).segcnt = s.segcnt := rfl
@[simp] theorem State.readFailed_seq (s : State) : (s.readFailed).seq = s.seq := rfl
@[simp] theorem State.readFailed_cur (s : State) : (s.readFailed).cur = s.cur := rfl
@[simp] theorem State.readFailed_rem (s : State) : (s.readFailed).rem = s.rem := rfl
@[simp] theorem State.readFailed_rxacc (s : State) : (s.readFailed).rxacc = s.rxacc := rfl
@[simp] theorem State.readFailed_errbuf (s : State) : (s.readFailed).errbuf = s.errbuf := rfl
@[simp] theorem State.readFailed_rdb (s : State) : (s.readFailed).rdb = cellsWriteAll [] 0 ((Config.freeRdb
    s.draws).take 65536) := rfl
@[simp] theorem State.readFailed_gt (s : State) : (s.readFailed).gt = s.gt := rfl
@[simp] theorem State.readFailed_ucr (s : State) : (s.readFailed).ucr = s.ucr := rfl
@[simp] theorem State.readFailed_bdur (s : State) : (s.readFailed).bdur = s.bdur := rfl
@[simp] theorem State.readFailed_rl (s : State) : (s.readFailed).rl = s.rl := rfl
@[simp] theorem State.readFailed_eqf (s : State) : (s.readFailed).eqf = s.eqf := rfl
@[simp] theorem State.readFailed_tsw0 (s : State) : (s.readFailed).tsw0 = s.tsw0 := rfl
@[simp] theorem State.readFailed_tsw1 (s : State) : (s.readFailed).tsw1 = s.tsw1 := rfl
@[simp] theorem State.readFailed_tsw2 (s : State) : (s.readFailed).tsw2 = s.tsw2 := rfl
@[simp] theorem State.readFailed_tssec (s : State) : (s.readFailed).tssec = s.tssec := rfl
@[simp] theorem State.readFailed_tsms (s : State) : (s.readFailed).tsms = s.tsms := rfl
@[simp] theorem State.readFailed_scr (s : State) : (s.readFailed).scr = s.scr := rfl
@[simp] theorem State.readFailed_pr (s : State) : (s.readFailed).pr = s.pr := rfl
@[simp] theorem State.readFailed_prv (s : State) : (s.readFailed).prv = s.prv := rfl
@[simp] theorem State.readFailed_pend (s : State) : (s.readFailed).pend = s.pend := rfl
@[simp] theorem State.readFailed_inbox (s : State) : (s.readFailed).inbox = s.inbox := rfl
@[simp] theorem State.readFailed_sent (s : State) : (s.readFailed).sent = s.sent := rfl
@[simp] theorem State.readFailed_env (s : State) : (s.readFailed).env = s.env := rfl
@[simp] theorem State.readFailed_draws (s : State) : (s.readFailed).draws = s.draws + 1 := rfl

/-! ### `State.toUserFailed` -/

@[simp] theorem State.toUserFailed_cfg (s : State) : (s.toUserFailed).cfg = s.cfg := rfl
@[simp] theorem State.toUserFailed_crcr (s : State) : (s.toUserFailed).crcr = s.crcr := rfl
@[simp] theorem State.toUserFailed_hc (s : State) : (s.toUserFailed).hc = s.hc := rfl
@[simp] theorem State.toUserFailed_tmo (s : State) : (s.toUserFailed).tmo = s.tmo := rfl
@[simp] theorem State.toUserFailed_link (s : State) : (s.toUserFailed).link = s.link := rfl
@[simp] theorem State.toUserFailed_busy (s : State) : (s.toUserFailed).busy = s.busy := rfl
@[simp] theorem State.toUserFailed_status (s : State) : (s.toUserFailed).status = s.status := rfl
@[simp] theorem State.toUserFailed_fsticky (s : State) : (s.toUserFailed).fsticky = s.fsticky := rfl
@[simp] theorem State.toUserFailed_info0 (s : State) : (s.toUserFailed).info0 = s.info0 := rfl
@[simp] theorem State.toUserFailed_info1 (s : State) : (s.toUserFailed).info1 = s.info1 := rfl
@[simp] theorem State.toUserFailed_errfunc (s : State) : (s.toUserFailed).errfunc = s.errfunc := rfl
@[simp] theorem State.toUserFailed_errlen (s : State) : (s.toUserFailed).errlen = s.errlen := rfl
@[simp] theorem State.toUserFailed_echoaddr (s : State) : (s.toUserFailed).echoaddr = s.echoaddr := rfl
@[simp] theorem State.toUserFailed_echocnt (s : State) : (s.toUserFailed).echocnt = s.echocnt := rfl
@[simp] theorem State.toUserFailed_rdcnt (s : State) : (s.toUserFailed).rdcnt = s.rdcnt := rfl
@[simp] theorem State.toUserFailed_segcnt (s : State) : (s.toUserFailed).segcnt = s.segcnt := rfl
@[simp] theorem State.toUserFailed_seq (s : State) : (s.toUserFailed).seq = s.seq := rfl
@[simp] theorem State.toUserFailed_cur (s : State) : (s.toUserFailed).cur = s.cur := rfl
@[simp] theorem State.toUserFailed_rem (s : State) : (s.toUserFailed).rem = s.rem := rfl
@[simp] theorem State.toUserFailed_rxacc (s : State) : (s.toUserFailed).rxacc = s.rxacc := rfl
@[simp] theorem State.toUserFailed_errbuf (s : State) : (s.toUserFailed).errbuf = s.errbuf := rfl
@[simp] theorem State.toUserFailed_rdb (s : State) : (s.toUserFailed).rdb = s.rdb := rfl
@[simp] theorem State.toUserFailed_gt (s : State) : (s.toUserFailed).gt = s.gt := rfl
@[simp] theorem State.toUserFailed_ucr (s : State) : (s.toUserFailed).ucr = Config.freeUcr s.draws := rfl
@[simp] theorem State.toUserFailed_bdur (s : State) : (s.toUserFailed).bdur = s.bdur := rfl
@[simp] theorem State.toUserFailed_rl (s : State) : (s.toUserFailed).rl = s.rl := rfl
@[simp] theorem State.toUserFailed_eqf (s : State) : (s.toUserFailed).eqf = s.eqf := rfl
@[simp] theorem State.toUserFailed_tsw0 (s : State) : (s.toUserFailed).tsw0 = s.tsw0 := rfl
@[simp] theorem State.toUserFailed_tsw1 (s : State) : (s.toUserFailed).tsw1 = s.tsw1 := rfl
@[simp] theorem State.toUserFailed_tsw2 (s : State) : (s.toUserFailed).tsw2 = s.tsw2 := rfl
@[simp] theorem State.toUserFailed_tssec (s : State) : (s.toUserFailed).tssec = s.tssec := rfl
@[simp] theorem State.toUserFailed_tsms (s : State) : (s.toUserFailed).tsms = s.tsms := rfl
@[simp] theorem State.toUserFailed_scr (s : State) : (s.toUserFailed).scr = s.scr := rfl
@[simp] theorem State.toUserFailed_pr (s : State) : (s.toUserFailed).pr = s.pr := rfl
@[simp] theorem State.toUserFailed_prv (s : State) : (s.toUserFailed).prv = s.prv := rfl
@[simp] theorem State.toUserFailed_pend (s : State) : (s.toUserFailed).pend = s.pend := rfl
@[simp] theorem State.toUserFailed_inbox (s : State) : (s.toUserFailed).inbox = s.inbox := rfl
@[simp] theorem State.toUserFailed_sent (s : State) : (s.toUserFailed).sent = s.sent := rfl
@[simp] theorem State.toUserFailed_env (s : State) : (s.toUserFailed).env = s.env := rfl
@[simp] theorem State.toUserFailed_draws (s : State) : (s.toUserFailed).draws = s.draws + 1 := rfl

/-! ### `State.txDrawn` -/

@[simp] theorem State.txDrawn_cfg (s : State) : s.txDrawn.cfg = s.cfg := by
  unfold State.txDrawn; split <;> rfl
@[simp] theorem State.txDrawn_crcr (s : State) : s.txDrawn.crcr = s.crcr := by
  unfold State.txDrawn; split <;> rfl
@[simp] theorem State.txDrawn_hc (s : State) : s.txDrawn.hc = s.hc := by
  unfold State.txDrawn; split <;> rfl
@[simp] theorem State.txDrawn_tmo (s : State) : s.txDrawn.tmo = s.tmo := by
  unfold State.txDrawn; split <;> rfl
@[simp] theorem State.txDrawn_link (s : State) : s.txDrawn.link = s.link := by
  unfold State.txDrawn; split <;> rfl
@[simp] theorem State.txDrawn_busy (s : State) : s.txDrawn.busy = s.busy := by
  unfold State.txDrawn; split <;> rfl
@[simp] theorem State.txDrawn_status (s : State) : s.txDrawn.status = s.status := by
  unfold State.txDrawn; split <;> rfl
@[simp] theorem State.txDrawn_fsticky (s : State) : s.txDrawn.fsticky = s.fsticky := by
  unfold State.txDrawn; split <;> rfl
@[simp] theorem State.txDrawn_info0 (s : State) : s.txDrawn.info0 = s.info0 := by
  unfold State.txDrawn; split <;> rfl
@[simp] theorem State.txDrawn_info1 (s : State) : s.txDrawn.info1 = s.info1 := by
  unfold State.txDrawn; split <;> rfl
@[simp] theorem State.txDrawn_errfunc (s : State) : s.txDrawn.errfunc = s.errfunc := by
  unfold State.txDrawn; split <;> rfl
@[simp] theorem State.txDrawn_errlen (s : State) : s.txDrawn.errlen = s.errlen := by
  unfold State.txDrawn; split <;> rfl
@[simp] theorem State.txDrawn_echoaddr (s : State) : s.txDrawn.echoaddr = s.echoaddr := by
  unfold State.txDrawn; split <;> rfl
@[simp] theorem State.txDrawn_echocnt (s : State) : s.txDrawn.echocnt = s.echocnt := by
  unfold State.txDrawn; split <;> rfl
@[simp] theorem State.txDrawn_rdcnt (s : State) : s.txDrawn.rdcnt = s.rdcnt := by
  unfold State.txDrawn; split <;> rfl
@[simp] theorem State.txDrawn_segcnt (s : State) : s.txDrawn.segcnt = s.segcnt := by
  unfold State.txDrawn; split <;> rfl
@[simp] theorem State.txDrawn_seq (s : State) : s.txDrawn.seq = s.seq := by
  unfold State.txDrawn; split <;> rfl
@[simp] theorem State.txDrawn_cur (s : State) : s.txDrawn.cur = s.cur := by
  unfold State.txDrawn; split <;> rfl
@[simp] theorem State.txDrawn_rem (s : State) : s.txDrawn.rem = s.rem := by
  unfold State.txDrawn; split <;> rfl
@[simp] theorem State.txDrawn_rxacc (s : State) : s.txDrawn.rxacc = s.rxacc := by
  unfold State.txDrawn; split <;> rfl
@[simp] theorem State.txDrawn_errbuf (s : State) : s.txDrawn.errbuf = s.errbuf := by
  unfold State.txDrawn; split <;> rfl
@[simp] theorem State.txDrawn_rdb (s : State) : s.txDrawn.rdb = s.rdb := by
  unfold State.txDrawn; split <;> rfl
@[simp] theorem State.txDrawn_gt (s : State) : s.txDrawn.gt = s.gt := by
  unfold State.txDrawn; split <;> rfl
@[simp] theorem State.txDrawn_ucr (s : State) : s.txDrawn.ucr = s.ucr := by
  unfold State.txDrawn; split <;> rfl
@[simp] theorem State.txDrawn_bdur (s : State) : s.txDrawn.bdur = s.bdur := by
  unfold State.txDrawn; split <;> rfl
@[simp] theorem State.txDrawn_rl (s : State) : s.txDrawn.rl = s.rl := by
  unfold State.txDrawn; split <;> rfl
@[simp] theorem State.txDrawn_eqf (s : State) : s.txDrawn.eqf = s.eqf := by
  unfold State.txDrawn; split <;> rfl
@[simp] theorem State.txDrawn_tsw0 (s : State) : s.txDrawn.tsw0 = s.tsw0 := by
  unfold State.txDrawn; split <;> rfl
@[simp] theorem State.txDrawn_tsw1 (s : State) : s.txDrawn.tsw1 = s.tsw1 := by
  unfold State.txDrawn; split <;> rfl
@[simp] theorem State.txDrawn_tsw2 (s : State) : s.txDrawn.tsw2 = s.tsw2 := by
  unfold State.txDrawn; split <;> rfl
@[simp] theorem State.txDrawn_tssec (s : State) : s.txDrawn.tssec = s.tssec := by
  unfold State.txDrawn; split <;> rfl
@[simp] theorem State.txDrawn_tsms (s : State) : s.txDrawn.tsms = s.tsms := by
  unfold State.txDrawn; split <;> rfl
@[simp] theorem State.txDrawn_scr (s : State) : s.txDrawn.scr = s.scr := by
  unfold State.txDrawn; split <;> rfl
@[simp] theorem State.txDrawn_pr (s : State) : s.txDrawn.pr = s.pr := by
  unfold State.txDrawn; split <;> rfl
@[simp] theorem State.txDrawn_prv (s : State) : s.txDrawn.prv = s.prv := by
  unfold State.txDrawn; split <;> rfl
@[simp] theorem State.txDrawn_pend (s : State) : s.txDrawn.pend = s.pend := by
  unfold State.txDrawn; split <;> rfl
@[simp] theorem State.txDrawn_inbox (s : State) : s.txDrawn.inbox = s.inbox := by
  unfold State.txDrawn; split <;> rfl
@[simp] theorem State.txDrawn_sent (s : State) : s.txDrawn.sent = s.sent := by
  unfold State.txDrawn; split <;> rfl

@[simp] theorem State.txDrawn_env (s : State) : s.txDrawn.env = { s.env with tx := s.env.tx.tail } := by
  cases h : s.env.tx with
  | nil => simp [State.txDrawn, h]; rw [← h]
  | cons a as => simp [State.txDrawn, h]
@[simp] theorem State.txDrawn_draws (s : State) :
    s.txDrawn.draws = if s.env.tx = [] then s.draws + 1 else s.draws := by
  cases h : s.env.tx <;> simp [State.txDrawn, h]

/-! ### `State.openDrawn` -/

@[simp] theorem State.openDrawn_cfg (s : State) : s.openDrawn.cfg = s.cfg := by
  unfold State.openDrawn; split <;> rfl
@[simp] theorem State.openDrawn_crcr (s : State) : s.openDrawn.crcr = s.crcr := by
  unfold State.openDrawn; split <;> rfl
@[simp] theorem State.openDrawn_hc (s : State) : s.openDrawn.hc = s.hc := by
  unfold State.openDrawn; split <;> rfl
@[simp] theorem State.openDrawn_tmo (s : State) : s.openDrawn.tmo = s.tmo := by
  unfold State.openDrawn; split <;> rfl
@[simp] theorem State.openDrawn_link (s : State) : s.openDrawn.link = s.link := by
  unfold State.openDrawn; split <;> rfl
@[simp] theorem State.openDrawn_busy (s : State) : s.openDrawn.busy = s.busy := by
  unfold State.openDrawn; split <;> rfl
@[simp] theorem State.openDrawn_status (s : State) : s.openDrawn.status = s.status := by
  unfold State.openDrawn; split <;> rfl
@[simp] theorem State.openDrawn_fsticky (s : State) : s.openDrawn.fsticky = s.fsticky := by
  unfold State.openDrawn; split <;> rfl
@[simp] theorem State.openDrawn_info0 (s : State) : s.openDrawn.info0 = s.info0 := by
  unfold State.openDrawn; split <;> rfl
@[simp] theorem State.openDrawn_info1 (s : State) : s.openDrawn.info1 = s.info1 := by
  unfold State.openDrawn; split <;> rfl
@[simp] theorem State.openDrawn_errfunc (s : State) : s.openDrawn.errfunc = s.errfunc := by
  unfold State.openDrawn; split <;> rfl
@[simp] theorem State.openDrawn_errlen (s : State) : s.openDrawn.errlen = s.errlen := by
  unfold State.openDrawn; split <;> rfl
@[simp] theorem State.openDrawn_echoaddr (s : State) : s.openDrawn.echoaddr = s.echoaddr := by
  unfold State.openDrawn; split <;> rfl
@[simp] theorem State.openDrawn_echocnt (s : State) : s.openDrawn.echocnt = s.echocnt := by
  unfold State.openDrawn; split <;> rfl
@[simp] theorem State.openDrawn_rdcnt (s : State) : s.openDrawn.rdcnt = s.rdcnt := by
  unfold State.openDrawn; split <;> rfl
@[simp] theorem State.openDrawn_segcnt (s : State) : s.openDrawn.segcnt = s.segcnt := by
  unfold State.openDrawn; split <;> rfl
@[simp] theorem State.openDrawn_seq (s : State) : s.openDrawn.seq = s.seq := by
  unfold State.openDrawn; split <;> rfl
@[simp] theorem State.openDrawn_cur (s : State) : s.openDrawn.cur = s.cur := by
  unfold State.openDrawn; split <;> rfl
@[simp] theorem State.openDrawn_rem (s : State) : s.openDrawn.rem = s.rem := by
  unfold State.openDrawn; split <;> rfl
@[simp] theorem State.openDrawn_rxacc (s : State) : s.openDrawn.rxacc = s.rxacc := by
  unfold State.openDrawn; split <;> rfl
@[simp] theorem State.openDrawn_errbuf (s : State) : s.openDrawn.errbuf = s.errbuf := by
  unfold State.openDrawn; split <;> rfl
@[simp] theorem State.openDrawn_rdb (s : State) : s.openDrawn.rdb = s.rdb := by
  unfold State.openDrawn; split <;> rfl
@[simp] theorem State.openDrawn_gt (s : State) : s.openDrawn.gt = s.gt := by
  unfold State.openDrawn; split <;> rfl
@[simp] theorem State.openDrawn_ucr (s : State) : s.openDrawn.ucr = s.ucr := by
  unfold State.openDrawn; split <;> rfl
@[simp] theorem State.openDrawn_bdur (s : State) : s.openDrawn.bdur = s.bdur := by
  unfold State.openDrawn; split <;> rfl
@[simp] theorem State.openDrawn_rl (s : State) : s.openDrawn.rl = s.rl := by
  unfold State.openDrawn; split <;> rfl
@[simp] theorem State.openDrawn_eqf (s : State) : s.openDrawn.eqf = s.eqf := by
  unfold State.openDrawn; split <;> rfl
@[simp] theorem State.openDrawn_tsw0 (s : State) : s.openDrawn.tsw0 = s.tsw0 := by
  unfold State.openDrawn; split <;> rfl
@[simp] theorem State.openDrawn_tsw1 (s : State) : s.openDrawn.tsw1 = s.tsw1 := by
  unfold State.openDrawn; split <;> rfl
@[simp] theorem State.openDrawn_tsw2 (s : State) : s.openDrawn.tsw2 = s.tsw2 := by
  unfold State.openDrawn; split <;> rfl
@[simp] theorem State.openDrawn_tssec (s : State) : s.openDrawn.tssec = s.tssec := by
  unfold State.openDrawn; split <;> rfl
@[simp] theorem State.openDrawn_tsms (s : State) : s.openDrawn.tsms = s.tsms := by
  unfold State.openDrawn; split <;> rfl
@[simp] theorem State.openDrawn_scr (s : State) : s.openDrawn.scr = s.scr := by
  unfold State.openDrawn; split <;> rfl
@[simp] theorem State.openDrawn_pr (s : State) : s.openDrawn.pr = s.pr := by
  unfold State.openDrawn; split <;> rfl
@[simp] theorem State.openDrawn_prv (s : State) : s.openDrawn.prv = s.prv := by
  unfold State.openDrawn; split <;> rfl
@[simp] theorem State.openDrawn_pend (s : State) : s.openDrawn.pend = s.pend := by
  unfold State.openDrawn; split <;> rfl
@[simp] theorem State.openDrawn_inbox (s : State) : s.openDrawn.inbox = s.inbox := by
  unfold State.openDrawn; split <;> rfl
@[simp] theorem State.openDrawn_sent (s : State) : s.openDrawn.sent = s.sent := by
  unfold State.openDrawn; split <;> rfl

@[simp] theorem State.openDrawn_env (s : State) : s.openDrawn.env =
    { s.env with rx := s.env.rx.drop s.openAnswer.dropped, opens := s.env.opens.tail } := by
  cases h : s.env.opens <;> simp [State.openDrawn, h]
@[simp] theorem State.openDrawn_draws (s : State) :
    s.openDrawn.draws = if s.env.opens = [] then s.draws + 1 else s.draws := by
  cases h : s.env.opens <;> simp [State.openDrawn, h]

end Sys2Proof.Machine
end

