-- ==== Sys2Proof/Laws/Engine.lean ====
section
/-! SUPPORT. How operations of the engine compose, and what each shared operation can do. -/

namespace Sys2Proof.Machine

/-! ### Sequencing -/

@[simp] theorem engine_pure_apply {α : Type} (a : α) (s : State) : (pure a : Engine α) s = .ok a s := rfl

theorem engine_bind_apply {α β : Type} (x : Engine α) (f : α → Engine β) (s : State) :
    (x >>= f) s = match x s with | .ok a s' => f a s' | .error e s' => .error e s' := by
  show EStateM.bind x f s = _
  unfold EStateM.bind
  cases x s <;> rfl

theorem engine_bind_ok {α β : Type} {x : Engine α} {f : α → Engine β} {s s' : State} {a : α} (h : x s = .ok a s') :
    (x >>= f) s = f a s' := by rw [engine_bind_apply, h]

theorem engine_bind_error {α β : Type} {x : Engine α} {f : α → Engine β} {s s' : State} {e : Unit}
    (h : x s = .error e s') : (x >>= f) s = .error e s' := by rw [engine_bind_apply, h]

@[simp] theorem update_apply (f : State → State) (s : State) : update f s = .ok () (f s) := rfl

@[simp] theorem inspect_apply {α : Type} (f : State → α) (s : State) : inspect f s = .ok (f s) s := rfl

@[simp] theorem raise_apply {α : Type} (c : Cause) (i0 i1 : Int) (s : State) :
    (raise c i0 i1 : Engine α) s = .error () (s.raise c i0 i1) := rfl

@[simp] theorem succeed_apply (s : State) : succeed s = .ok () { s with status := 0 } := rfl

@[simp] theorem moveSeq_apply (q : Seq) (s : State) : moveSeq q s = .ok () { s with seq := q } := rfl

theorem require_true {p : Prop} [Decidable p] (h : p) (c : Cause) (i0 i1 : Int) (s : State) :
    require p c i0 i1 s = .ok () s := by simp [require, h]

theorem require_false {p : Prop} [Decidable p] (h : ¬p) (c : Cause) (i0 i1 : Int) (s : State) :
    require p c i0 i1 s = .error () (s.raise c i0 i1) := by simp [require, h]

@[simp] theorem update_bind {β : Type} (f : State → State) (g : Unit → Engine β) (s : State) :
    (update f >>= g) s = g () (f s) := rfl

@[simp] theorem inspect_bind {α β : Type} (f : State → α) (g : α → Engine β) (s : State) :
    (inspect f >>= g) s = g (f s) s := rfl

@[simp] theorem succeed_bind {β : Type} (g : Unit → Engine β) (s : State) :
    (succeed >>= g) s = g () { s with status := 0 } := rfl

@[simp] theorem moveSeq_bind {β : Type} (q : Seq) (g : Unit → Engine β) (s : State) :
    (moveSeq q >>= g) s = g () { s with seq := q } := rfl

theorem require_bind {β : Type} (p : Prop) [Decidable p] (c : Cause) (i0 i1 : Int) (g : Unit → Engine β) (s : State) :
    (require p c i0 i1 >>= g) s = if p then g () s else .error () (s.raise c i0 i1) := by
  by_cases h : p
  · rw [engine_bind_ok (require_true h c i0 i1 s), if_pos h]
  · rw [engine_bind_error (require_false h c i0 i1 s), if_neg h]

/-! ### Running -/

theorem runOp_ok {α : Type} {op : Engine α} {s s' : State} {a : α} (h : op s = .ok a s') : runOp op s = s' := by
  simp [runOp, h]

theorem runOp_error {α : Type} {op : Engine α} {s s' : State} {e : Unit} (h : op s = .error e s') :
    runOp op s = s' := by simp [runOp, h]

theorem onFault_ok {α : Type} {op : Engine α} {f : State → State} {s s' : State} {a : α} (h : op s = .ok a s') :
    onFault op f s = .ok a s' := by simp [onFault, h]

theorem onFault_error {α : Type} {op : Engine α} {f : State → State} {s s' : State} {e : Unit}
    (h : op s = .error e s') : onFault op f s = .error e (f s') := by simp [onFault, h]

/-! ### What an operation relates

`Ends P Q op`: an operation that ends normally relates the state before and after by `P`, one that a raise ends by `Q`.
It goes through sequencing when `P` is reflexive and transitive and `P` before `Q` is `Q`, so that a claim about an
instruction reduces to its writes. -/

/-- What an operation relates when it ends normally and when a raise ends it. -/
abbrev Ends {α : Type} (P Q : State → State → Prop) (op : Engine α) : Prop :=
  ∀ s, (∀ a s', op s = .ok a s' → P s s') ∧ (∀ e s', op s = .error e s' → Q s s')

/-- The operation relates the state it starts from to the state it leaves, however it ends. -/
abbrev Keeps {α : Type} (R : State → State → Prop) (op : Engine α) : Prop := Ends R R op

section
variable {α β : Type} {P Q : State → State → Prop}

theorem ends_pure (hr : ∀ s, P s s) (a : α) : Ends P Q (pure a : Engine α) := by
  intro s
  constructor
  · intro b s' h; cases h; exact hr s
  · intro e s' h; cases h

theorem ends_bind (ht : ∀ a b c, P a b → P b c → P a c) (hq : ∀ a b c, P a b → Q b c → Q a c) {x : Engine α}
    {f : α → Engine β} (hx : Ends P Q x) (hf : ∀ a, Ends P Q (f a)) : Ends P Q (x >>= f) := by
  intro s
  have hx' := hx s
  rw [engine_bind_apply]
  cases h : x s with
  | ok a s1 =>
    have h1 := hx'.1 a s1 h
    exact ⟨fun b s' hb => ht _ _ _ h1 ((hf a s1).1 b s' hb), fun e s' he => hq _ _ _ h1 ((hf a s1).2 e s' he)⟩
  | error e s1 =>
    have h1 := hx'.2 e s1 h
    refine ⟨fun b s' hb => by simp at hb, fun e' s' he => ?_⟩
    simp only [EStateM.Result.error.injEq] at he
    exact he.2 ▸ h1

theorem ends_update {f : State → State} (h : ∀ s, P s (f s)) : Ends P Q (update f) := by
  intro s
  constructor
  · intro a s' e; simp only [update_apply, EStateM.Result.ok.injEq] at e; exact e.2 ▸ h s
  · intro a s' e; simp at e

theorem ends_inspect (hr : ∀ s, P s s) (f : State → α) : Ends P Q (inspect f) := by
  intro s
  constructor
  · intro a s' e; simp only [inspect_apply, EStateM.Result.ok.injEq] at e; exact e.2 ▸ hr s
  · intro a s' e; simp at e

theorem ends_raise {c : Cause} {i0 i1 : Int} (h : ∀ s, Q s (s.raise c i0 i1)) :
    Ends P Q (raise c i0 i1 : Engine α) := by
  intro s
  constructor
  · intro a s' e; simp at e
  · intro a s' e; simp only [raise_apply, EStateM.Result.error.injEq] at e; exact e.2 ▸ h s

theorem ends_require (hr : ∀ s, P s s) {p : Prop} [Decidable p] {c : Cause} {i0 i1 : Int}
    (h : ∀ s, Q s (s.raise c i0 i1)) : Ends P Q (require p c i0 i1) := by
  unfold require
  split
  · exact ends_pure hr ()
  · exact ends_raise h

theorem ends_onFault {Q' : State → State → Prop} {op : Engine α} {f : State → State} (ho : Ends P Q op)
    (hf : ∀ s t, Q s t → Q' s (f t)) : Ends P Q' (onFault op f) := by
  intro s
  have ho' := ho s
  unfold onFault
  cases h : op s with
  | ok a s1 =>
    refine ⟨fun b s' hb => ?_, fun e s' he => by simp at he⟩
    cases hb
    exact ho'.1 a s1 h
  | error e s1 =>
    refine ⟨fun b s' hb => by simp at hb, fun e' s' he => ?_⟩
    cases he
    exact hf _ _ (ho'.2 e s1 h)

theorem ends_runOp {op : Engine α} (h : Ends P Q op) (s : State) : P s (runOp op s) ∨ Q s (runOp op s) := by
  unfold runOp
  cases e : op s with
  | ok a s' => exact .inl ((h s).1 a s' e)
  | error e' s' => exact .inr ((h s).2 e' s' e)

theorem keeps_runOp {R : State → State → Prop} {op : Engine α} (h : Keeps R op) (s : State) : R s (runOp op s) :=
  (ends_runOp h s).elim id id

end

/-! ### The receive accumulator -/

theorem accumulate_length (a b : List Byte) : (accumulate a b).length ≤ rxaccBytes := by simp [accumulate]

theorem accumulate_of_fits {a b : List Byte} (h : a.length + b.length ≤ rxaccBytes) : accumulate a b = a ++ b :=
  List.take_of_length_le (by simpa using h)

@[simp] theorem accumulate_nil_nil : accumulate [] [] = [] := rfl

/-- Two reads accumulate what one read of all the bytes does. -/
@[simp] theorem accumulate_accumulate (a b c : List Byte) : accumulate (accumulate a b) c = accumulate a (b ++ c) := by
  simp only [accumulate, ← List.append_assoc]
  rw [List.take_append (l₁ := (a ++ b).take rxaccBytes), List.take_append (l₁ := a ++ b), List.take_take, Nat.min_self,
    List.length_take, show rxaccBytes - min rxaccBytes (a ++ b).length = rxaccBytes - (a ++ b).length by omega]

/-! ### Receive and transmit -/

theorem rxLoop_cases (n : Nat) (es : List RxStep) : ∀ acc, acc.length < n →
    match rxLoop n acc es with
    | .full b _ => b.length = n
    | .timeout b _ => b.length < n
    | .closed b _ => b.length < n
    | .waiting b => b.length < n := by
  induction es with
  | nil => intro acc h; simpa [rxLoop] using h
  | cons e es ih =>
    intro acc h
    obtain ⟨a, x⟩ := e
    cases a with
    | closed => simpa [rxLoop] using h
    | none =>
      cases x
      · simpa [rxLoop] using ih acc h
      · simpa [rxLoop] using h
    | data bs =>
      by_cases hg : (acc ++ bs.take (n - acc.length)).length = n
      · simp only [rxLoop, if_pos hg]; exact hg
      · have hlt : (acc ++ bs.take (n - acc.length)).length < n := by
          simp only [List.length_append, List.length_take] at hg ⊢; omega
        cases x
        · simpa only [rxLoop, if_neg hg, Bool.false_eq_true, if_false] using ih _ hlt
        · simpa only [rxLoop, if_neg hg, if_true] using hlt

/-- What `Rx(n, bound)` can do (41_transport.md R165): deliver exactly `n` bytes, or raise one of the three causes with
fewer bytes consumed; nothing but `RXACC`, the stream and the counter changes besides the raise. -/
theorem receive_cases (n : Nat) (bound : Rat) (s : State) :
    (n = 0 ∧ receive n bound s = .ok [] s) ∨
    (∃ free acc rest, acc.length = n ∧ receive n bound s = .ok acc (s.rxDone free acc rest)) ∨
    (∃ free acc rest c, acc.length < n ∧
      (c = .streamClosed ∨ c = .noResponse ∧ acc = [] ∨ c = .shortResponse ∧ acc ≠ []) ∧
      receive n bound s = .error () ((s.rxDone free acc rest).raise c n acc.length)) := by
  by_cases hn : n = 0
  · left; subst hn; exact ⟨rfl, by simp [receive]⟩
  · right
    have h1 := rxLoop_cases n s.env.rx [] (by simp; omega)
    have key : ∀ r, s.rxEnd n bound = r → (∀ b l, r = .full b l → b.length = n) →
        (∀ b l, r = .timeout b l → b.length < n) →
        (∀ b l, r = .closed b l → b.length < n) → (∀ b, r ≠ .waiting b) →
        (∃ free acc rest, acc.length = n ∧ receive n bound s = .ok acc (s.rxDone free acc rest)) ∨
        (∃ free acc rest c, acc.length < n ∧
          (c = Cause.streamClosed ∨ c = .noResponse ∧ acc = [] ∨ c = .shortResponse ∧ acc ≠ []) ∧
          receive n bound s = .error () ((s.rxDone free acc rest).raise c n acc.length)) := by
      intro r hr hf ht hc hw
      cases r with
      | full b l => left; exact ⟨s.rxFree n, b, l, hf b l rfl, by simp [receive, hn, hr]⟩
      | timeout b l =>
        right
        by_cases hb : b = []
        · exact ⟨s.rxFree n, b, l, .noResponse, ht b l rfl, .inr (.inl ⟨rfl, hb⟩), by simp [receive, hn, hr, hb]⟩
        · exact ⟨s.rxFree n, b, l, .shortResponse, ht b l rfl, .inr (.inr ⟨rfl, hb⟩), by simp [receive, hn, hr, hb]⟩
      | closed b l => right; exact ⟨s.rxFree n, b, l, .streamClosed, hc b l rfl, .inl rfl, by simp [receive, hn, hr]⟩
      | waiting b => exact absurd rfl (hw b)
    cases hl : rxLoop n [] s.env.rx with
    | full b l =>
      rw [hl] at h1
      exact key (.full b l) (by simp [State.rxEnd, hl])
        (by rintro _ _ ⟨⟩; exact h1) (by rintro _ _ ⟨⟩) (by rintro _ _ ⟨⟩)
        (by rintro _ ⟨⟩)
    | timeout b l =>
      rw [hl] at h1
      exact key (.timeout b l) (by simp [State.rxEnd, hl])
        (by rintro _ _ ⟨⟩) (by rintro _ _ ⟨⟩; exact h1) (by rintro _ _ ⟨⟩)
        (by rintro _ ⟨⟩)
    | closed b l =>
      rw [hl] at h1
      exact key (.closed b l) (by simp [State.rxEnd, hl])
        (by rintro _ _ ⟨⟩) (by rintro _ _ ⟨⟩) (by rintro _ _ ⟨⟩; exact h1)
        (by rintro _ ⟨⟩)
    | waiting b =>
      rw [hl] at h1
      have h2 := rxLoop_cases n (Config.freeRx s.draws bound) b h1
      cases hm : rxLoop n b (Config.freeRx s.draws bound) with
      | full b' l =>
        rw [hm] at h2
        exact key (.full b' l) (by simp [State.rxEnd, hl, hm]) (by rintro _ _ ⟨⟩; exact h2) (by rintro _ _ ⟨⟩)
          (by rintro _ _ ⟨⟩) (by rintro _ ⟨⟩)
      | timeout b' l =>
        rw [hm] at h2
        exact key (.timeout b' l) (by simp [State.rxEnd, hl, hm]) (by rintro _ _ ⟨⟩) (by rintro _ _ ⟨⟩; exact h2)
          (by rintro _ _ ⟨⟩) (by rintro _ ⟨⟩)
      | closed b' l =>
        rw [hm] at h2
        exact key (.closed b' l) (by simp [State.rxEnd, hl, hm]) (by rintro _ _ ⟨⟩) (by rintro _ _ ⟨⟩)
          (by rintro _ _ ⟨⟩; exact h2) (by rintro _ ⟨⟩)
      | waiting b' =>
        rw [hm] at h2
        exact key (.timeout b' []) (by simp [State.rxEnd, hl, hm]) (by rintro _ _ ⟨⟩) (by rintro _ _ ⟨⟩; exact h2)
          (by rintro _ _ ⟨⟩) (by rintro _ ⟨⟩)

/-- What `Tx(frame)` can do (20_memory.md R62): hand over the whole frame, or raise with a prefix handed over. -/
theorem transmit_cases (frame : List Byte) (s : State) :
    (s.txAnswer = .ok ∧ transmit frame s = .ok () { s.txDrawn with sent := s.sent ++ frame }) ∨
    (∃ n, s.txAnswer = .ioError n ∧
      transmit frame s = .error () (({ s.txDrawn with sent := s.sent ++ frame.take n } : State).raise
        .writeFail 0 0)) := by
  cases h : s.txAnswer with
  | ok => left; refine ⟨rfl, ?_⟩; simp [transmit, h, acceptedBytes, require]
  | ioError n => right; refine ⟨n, rfl, ?_⟩; simp [transmit, h, acceptedBytes, require]

section
variable {P Q : State → State → Prop}

theorem ends_receive (hr : ∀ s, P s s) (hd : ∀ s free acc rest, P s (s.rxDone free acc rest))
    (hx : ∀ s free acc rest c i0 i1, c ∈ [Cause.streamClosed, .noResponse, .shortResponse] →
      Q s ((s.rxDone free acc rest).raise c i0 i1)) (n : Nat) (bound : Rat) : Ends P Q (receive n bound) := by
  intro s
  rcases receive_cases n bound s with ⟨-, h⟩ | ⟨free, acc, rest, -, h⟩ | ⟨free, acc, rest, c, -, hc, h⟩ <;> rw [h]
  · exact ⟨fun a s' e => by cases e; exact hr s, fun a s' e => by cases e⟩
  · exact ⟨fun a s' e => by cases e; exact hd s free acc rest, fun a s' e => by cases e⟩
  · refine ⟨fun a s' e => by simp at e, fun a s' e => ?_⟩
    cases e
    refine hx s free acc rest c _ _ ?_
    rcases hc with rfl | ⟨rfl, -⟩ | ⟨rfl, -⟩ <;> simp

theorem ends_transmit (frame : List Byte) (hd : ∀ s : State, P s { s.txDrawn with sent := s.sent ++ frame })
    (hx : ∀ (s : State) n, Q s (({ s.txDrawn with sent := s.sent ++ frame.take n } : State).raise .writeFail 0 0)) :
    Ends P Q (transmit frame) := by
  intro s
  rcases transmit_cases frame s with ⟨-, h⟩ | ⟨n, -, h⟩ <;> rw [h]
  · exact ⟨fun a s' e => by cases e; exact hd s, fun a s' e => by cases e⟩
  · refine ⟨fun a s' e => by simp at e, fun a s' e => ?_⟩
    cases e
    exact hx s n

end

end Sys2Proof.Machine
end

