-- ==== Sys2Proof/Laws/Numbers.lean ====
section
/-! SUPPORT. The number domain: with `NUM = exact` the operations are those of the rationals, with `NUM = binary64` each
result is within the tolerance of the format. -/

namespace Sys2Proof.Machine

@[simp] theorem qAdd_exact {cfg : Config} (h : cfg.num = .exact) (x y : Rat) : qAdd cfg x y = x + y := by
  simp [qAdd, inDomain, h]
@[simp] theorem qSub_exact {cfg : Config} (h : cfg.num = .exact) (x y : Rat) : qSub cfg x y = x - y := by
  simp [qSub, inDomain, h]
@[simp] theorem qMul_exact {cfg : Config} (h : cfg.num = .exact) (x y : Rat) : qMul cfg x y = x * y := by
  simp [qMul, inDomain, h]
@[simp] theorem qDiv_exact {cfg : Config} (h : cfg.num = .exact) (x y : Rat) : qDiv cfg x y = x / y := by
  simp [qDiv, h]

@[simp] theorem qAdd_binary64 {cfg : Config} (h : cfg.num = .binary64) (x y : Rat) :
    qAdd cfg x y = inBinary64 (x + y) := by simp [qAdd, inDomain, h]
@[simp] theorem qSub_binary64 {cfg : Config} (h : cfg.num = .binary64) (x y : Rat) :
    qSub cfg x y = inBinary64 (x - y) := by simp [qSub, inDomain, h]
@[simp] theorem qMul_binary64 {cfg : Config} (h : cfg.num = .binary64) (x y : Rat) :
    qMul cfg x y = inBinary64 (x * y) := by simp [qMul, inDomain, h]
@[simp] theorem qDiv_binary64 {cfg : Config} (h : cfg.num = .binary64) (x : Rat) {y : Rat} (hy : y ≠ 0) :
    qDiv cfg x y = inBinary64 (x / y) := by simp [qDiv, h, hy]

theorem binary64Slack_nonneg (x : Rat) : 0 ≤ binary64Slack x := by unfold binary64Slack; positivity

theorem inBinary64_of_fits {x : Rat} (h : FitsBinary64 x) : inBinary64 x = x := if_pos h

/-- An integer of at most 53 bits needs no rounding. -/
theorem inBinary64_int {n : Int} (h : n.natAbs ≤ 2 ^ 53) : inBinary64 (n : Rat) = n :=
  inBinary64_of_fits ⟨by rw [Rat.den_intCast]; exact one_dvd _, by simpa using h⟩

@[simp] theorem inBinary64_zero : inBinary64 0 = 0 := inBinary64_of_fits ⟨one_dvd _, Nat.zero_le _⟩

/-- A zero factor or dividend gives zero in either domain (46_profile.md R300). -/
@[simp] theorem zero_qMul (cfg : Config) (y : Rat) : qMul cfg 0 y = 0 := by
  cases h : cfg.num <;> simp [h]
@[simp] theorem qMul_zero (cfg : Config) (x : Rat) : qMul cfg x 0 = 0 := by
  cases h : cfg.num <;> simp [h]
@[simp] theorem zero_qDiv (cfg : Config) {y : Rat} (hy : y ≠ 0) : qDiv cfg 0 y = 0 := by
  cases h : cfg.num <;> simp [h, hy]

/-- A result is within the tolerance wherever the format cannot overflow. -/
theorem inBinary64_within {x : Rat} (h : |x| ≤ 2 ^ 1023) : |inBinary64 x - x| ≤ binary64Slack x := by
  have h0 := binary64Slack_nonneg x
  by_cases hf : FitsBinary64 x
  · rw [inBinary64_of_fits hf, sub_self, abs_zero]; exact h0
  · rw [inBinary64, if_neg hf, if_pos h, clamp, abs_le]
    split
    · constructor <;> linarith
    · split <;> constructor <;> linarith

/-- The same of a number below 2^64, in which the smallest subnormal number is absorbed. -/
theorem inBinary64_within_small {x : Rat} (h : |x| ≤ 2 ^ 64) : |inBinary64 x - x| ≤ |x| / 2 ^ 52 + 1 / 2 ^ 100 := by
  refine (inBinary64_within (h.trans (by decide +kernel))).trans ?_
  unfold binary64Slack
  exact add_le_add_right (by decide +kernel) _

end Sys2Proof.Machine
end

