-- ==== Sys2Proof/Laws/PerInstr.lean ====
section
/-! SUPPORT. Statements made once per instruction. -/

namespace Sys2Proof.Laws

/-- The packet of the instruction is not empty, and a command's first byte is an OP code the decoder has an operand
reader for (spec/30_encoding.md R100): no encoded instruction is refused as `BAD_OP`. -/
def EncodedHead.Statement (i : Instr) : Prop :=
  ∀ sl : Byte, ∃ head tail, (encode sl i).bytes = head :: tail ∧
    ((encode sl i).chan = .command → (operandReader head.toNat).isSome = true)

theorem EncodedHead.crcCompute (d : List Byte) : EncodedHead.Statement (.crcCompute d) :=
  fun _ => ⟨_, _, rfl, fun _ => rfl⟩
theorem EncodedHead.crcInit : EncodedHead.Statement .crcInit :=
  fun _ => ⟨_, _, rfl, fun _ => rfl⟩
theorem EncodedHead.crcUpdate (b : Byte) : EncodedHead.Statement (.crcUpdate b) :=
  fun _ => ⟨_, _, rfl, fun _ => rfl⟩
theorem EncodedHead.crcRead : EncodedHead.Statement .crcRead :=
  fun _ => ⟨_, _, rfl, fun _ => rfl⟩
theorem EncodedHead.crcCheck (f : List Byte) : EncodedHead.Statement (.crcCheck f) :=
  fun _ => ⟨_, _, rfl, fun _ => rfl⟩
theorem EncodedHead.rdW (addr count : Word) (tmo : Option Rat) : EncodedHead.Statement (.rdW addr count tmo) :=
  fun _ => ⟨_, _, rfl, fun _ => rfl⟩
theorem EncodedHead.wrW (addr : Word) (v : List Word) (tmo : Option Rat) : EncodedHead.Statement (.wrW addr v tmo) :=
  fun _ => ⟨_, _, rfl, fun _ => rfl⟩
theorem EncodedHead.rdBuf (addr : Word) (total : BitVec 17) (tmo : Option Rat) :
    EncodedHead.Statement (.rdBuf addr total tmo) :=
  fun _ => ⟨_, _, rfl, fun _ => rfl⟩
theorem EncodedHead.wrBuf (addr : Word) (v : List Word) (tmo : Option Rat) :
    EncodedHead.Statement (.wrBuf addr v tmo) :=
  fun _ => ⟨_, _, rfl, fun _ => rfl⟩
theorem EncodedHead.csrRd (r : Byte) : EncodedHead.Statement (.csrRd r) :=
  fun _ => ⟨_, _, rfl, fun _ => rfl⟩
theorem EncodedHead.csrWr (r : Byte) (value : Rat) : EncodedHead.Statement (.csrWr r value) :=
  fun _ => ⟨_, _, rfl, fun _ => rfl⟩
theorem EncodedHead.linkOpen : EncodedHead.Statement .linkOpen :=
  fun _ => ⟨_, _, rfl, fun _ => rfl⟩
theorem EncodedHead.linkClose : EncodedHead.Statement .linkClose :=
  fun _ => ⟨_, _, rfl, fun _ => rfl⟩
theorem EncodedHead.castS16 (x : Rat) : EncodedHead.Statement (.castS16 x) :=
  fun _ => ⟨_, _, rfl, fun _ => rfl⟩
theorem EncodedHead.castU16 (x : Rat) : EncodedHead.Statement (.castU16 x) :=
  fun _ => ⟨_, _, rfl, fun _ => rfl⟩
theorem EncodedHead.gS2C (a1 r : Rat) : EncodedHead.Statement (.gS2C a1 r) :=
  fun _ => ⟨_, _, rfl, fun _ => rfl⟩
theorem EncodedHead.gC2S (code r : Rat) : EncodedHead.Statement (.gC2S code r) :=
  fun _ => ⟨_, _, rfl, fun _ => rfl⟩
theorem EncodedHead.gI2C (a0 : Rat) : EncodedHead.Statement (.gI2C a0) :=
  fun _ => ⟨_, _, rfl, fun _ => rfl⟩
theorem EncodedHead.gC2I (code : Rat) : EncodedHead.Statement (.gC2I code) :=
  fun _ => ⟨_, _, rfl, fun _ => rfl⟩
theorem EncodedHead.gTable (n : BitVec 15) (ci cs bi bs : Rat) : EncodedHead.Statement (.gTable n ci cs bi bs) :=
  fun _ => ⟨_, _, rfl, fun _ => rfl⟩
theorem EncodedHead.cfgFromUser (s : Nat) (a : AcousticConfig) (c : Rat) (blind : Option BlindLimits) :
    EncodedHead.Statement (.cfgFromUser s a c blind) :=
  fun _ => ⟨_, _, rfl, fun _ => rfl⟩
theorem EncodedHead.cfgFromRegs (s : Nat) (l : List Word) : EncodedHead.Statement (.cfgFromRegs s l) :=
  fun _ => ⟨_, _, rfl, fun _ => rfl⟩
theorem EncodedHead.cfgToRegs (s : Nat) : EncodedHead.Statement (.cfgToRegs s) :=
  fun _ => ⟨_, _, rfl, fun _ => rfl⟩
theorem EncodedHead.cfgToUser (s : Nat) (c : Rat) : EncodedHead.Statement (.cfgToUser s c) :=
  fun _ => ⟨_, _, rfl, fun _ => rfl⟩
theorem EncodedHead.cfgBlockDur (s : Nat) : EncodedHead.Statement (.cfgBlockDur s) :=
  fun _ => ⟨_, _, rfl, fun _ => rfl⟩
theorem EncodedHead.cfgEq (s t : Nat) : EncodedHead.Statement (.cfgEq s t) :=
  fun _ => ⟨_, _, rfl, fun _ => rfl⟩
theorem EncodedHead.tsEnc (sec ms : Int) : EncodedHead.Statement (.tsEnc sec ms) :=
  fun _ => ⟨_, _, rfl, fun _ => rfl⟩
theorem EncodedHead.tsDec (w0 w1 w2 : Word) : EncodedHead.Statement (.tsDec w0 w1 w2) :=
  fun _ => ⟨_, _, rfl, fun _ => rfl⟩
theorem EncodedHead.profDec (pb : List Byte) (s : Nat) : EncodedHead.Statement (.profDec pb s) :=
  fun _ => ⟨_, _, rfl, fun _ => rfl⟩
theorem EncodedHead.rdreq (addr count : Word) : EncodedHead.Statement (.rdreq addr count) :=
  fun _ => ⟨_, _, rfl, nofun⟩
theorem EncodedHead.rdrsp (slave : Byte) (payload : List Byte) (crc : Word) :
    EncodedHead.Statement (.rdrsp slave payload crc) :=
  fun _ => ⟨_, _, rfl, nofun⟩
theorem EncodedHead.wrreq (addr : Word) (v : List Word) : EncodedHead.Statement (.wrreq addr v) :=
  fun _ => ⟨_, _, rfl, nofun⟩
theorem EncodedHead.wrack (slave : Byte) (addr count crc : Word) :
    EncodedHead.Statement (.wrack slave addr count crc) :=
  fun _ => ⟨_, _, rfl, nofun⟩
theorem EncodedHead.wrerr (slave errFunc : Byte) (payload : List Byte) :
    EncodedHead.Statement (.wrerr slave errFunc payload) :=
  fun _ => ⟨_, _, rfl, nofun⟩
theorem EncodedHead.wrCfg (s : Nat) (a : Word) : EncodedHead.Statement (.wrCfg s a) :=
  fun _ => ⟨_, _, rfl, nofun⟩
theorem EncodedHead.rdCfg (s : Nat) (a : Word) : EncodedHead.Statement (.rdCfg s a) :=
  fun _ => ⟨_, _, rfl, nofun⟩
theorem EncodedHead.rdProf (s : Nat) (a : Word) : EncodedHead.Statement (.rdProf s a) :=
  fun _ => ⟨_, _, rfl, nofun⟩

end Sys2Proof.Laws
end

