-- ==== Sys2Proof/Laws/Transport.lean ====
section
/-! SUPPORT. What the steps of a transport operation do: the operand checks, sending, and receiving over a stream that
delivers. -/

namespace Sys2Proof.Machine

/-! ### Checks -/

theorem checkSlot_apply (i : Nat) (s : State) :
    checkSlot i s = if i < s.nSlots then .ok () s else .error () (s.raise .badSlot i 0) := by
  unfold checkSlot
  rw [inspect_bind]
  unfold require
  split <;> rfl

theorem checkLoaded_apply (i : Nat) (s : State) :
    checkLoaded i s = if s.slotValid i = true then .ok () s else .error () (s.raise .hcNotLoaded i 0) := by
  unfold checkLoaded
  rw [inspect_bind]
  unfold require
  split <;> rfl

theorem checkSlot_bind {β : Type} (i : Nat) (g : Unit → Engine β) (s : State) :
    (checkSlot i >>= g) s = if i < s.nSlots then g () s else .error () (s.raise .badSlot i 0) := by
  rw [engine_bind_apply, checkSlot_apply]
  by_cases h : i < s.nSlots <;> simp [h]

theorem checkLoaded_bind {β : Type} (i : Nat) (g : Unit → Engine β) (s : State) :
    (checkLoaded i >>= g) s = if s.slotValid i = true then g () s else .error () (s.raise .hcNotLoaded i 0) := by
  rw [engine_bind_apply, checkLoaded_apply]
  by_cases h : s.slotValid i = true <;> simp [h]

theorem checkCount_bind {β : Type} (n limit : Nat) (g : Unit → Engine β) (s : State) :
    (checkCount n limit >>= g) s = if 1 ≤ n ∧ n ≤ limit then g () s else .error () (s.raise .countRange n 0) :=
  require_bind _ _ _ _ _ _

theorem checkAddr_bind {β : Type} (addr : Word) (n : Nat) (g : Unit → Engine β) (s : State) :
    (checkAddr addr n >>= g) s =
      if addr.toNat + n ≤ 65536 then g () s else .error () (s.raise .addrRange addr.toNat n) :=
  require_bind _ _ _ _ _ _

theorem checkWrite_bind {β : Type} (addr : Word) (n : Nat) (g : Unit → Engine β) (s : State) :
    (checkWrite addr n >>= g) s =
      if 1 ≤ n ∧ n ≤ 123 then
        if addr.toNat + n ≤ 65536 then g () s
        else .error () (({ s with rdcnt := 0 } : State).raise .addrRange addr.toNat n)
      else .error () (({ s with rdcnt := 0 } : State).raise .countRange n 0) := by
  rw [engine_bind_apply]
  simp only [checkWrite, onFault, checkCount_bind, maxWr]
  by_cases h : 1 ≤ n ∧ n ≤ 123
  · by_cases h2 : addr.toNat + n ≤ 65536 <;> simp [h, h2, checkAddr, require, State.raise]
  · simp [h, State.raise]

theorem checkLink_bind {β : Type} (g : Unit → Engine β) (s : State) :
    (checkLink >>= g) s = if s.link = true then g () s else .error () (s.raise .linkNotOpen 0 0) := by
  rw [engine_bind_apply]
  by_cases h : s.link = true <;> simp [checkLink, require, h]

theorem checkSlave_bind {β : Type} (h : Byte) (g : Unit → Engine β) (s : State) :
    (checkSlave h >>= g) s = if s.AcceptsSlave h then g () s else .error () (s.raise .wrongSlave h.toNat 0) := by
  rw [engine_bind_apply]
  by_cases h' : s.AcceptsSlave h <;> simp [checkSlave, require, h']

@[simp] theorem startTransaction_bind {β : Type} (g : Unit → Engine β) (s : State) :
    (startTransaction >>= g) s = g () { s with busy := true, segcnt := s.segcnt + 1 } := rfl

@[simp] theorem finishTransport_apply (s : State) : finishTransport s = .ok () s.finished := rfl

/-! ### A finished exchange, field by field -/

@[simp] theorem State.exchanged_cfg (s : State) (f got : List Byte) (left : List RxStep) :
    (s.exchanged f got left).cfg = s.cfg := State.txDrawn_cfg s
@[simp] theorem State.exchanged_crcr (s : State) (f got : List Byte) (left : List RxStep) :
    (s.exchanged f got left).crcr = s.crcr := State.txDrawn_crcr s
@[simp] theorem State.exchanged_hc (s : State) (f got : List Byte) (left : List RxStep) :
    (s.exchanged f got left).hc = s.hc := State.txDrawn_hc s
@[simp] theorem State.exchanged_tmo (s : State) (f got : List Byte) (left : List RxStep) :
    (s.exchanged f got left).tmo = s.tmo := State.txDrawn_tmo s
@[simp] theorem State.exchanged_link (s : State) (f got : List Byte) (left : List RxStep) :
    (s.exchanged f got left).link = s.link := State.txDrawn_link s
@[simp] theorem State.exchanged_busy (s : State) (f got : List Byte) (left : List RxStep) :
    (s.exchanged f got left).busy = s.busy := State.txDrawn_busy s
@[simp] theorem State.exchanged_status (s : State) (f got : List Byte) (left : List RxStep) :
    (s.exchanged f got left).status = s.status := State.txDrawn_status s
@[simp] theorem State.exchanged_fsticky (s : State) (f got : List Byte) (left : List RxStep) :
    (s.exchanged f got left).fsticky = s.fsticky := State.txDrawn_fsticky s
@[simp] theorem State.exchanged_info0 (s : State) (f got : List Byte) (left : List RxStep) :
    (s.exchanged f got left).info0 = s.info0 := State.txDrawn_info0 s
@[simp] theorem State.exchanged_info1 (s : State) (f got : List Byte) (left : List RxStep) :
    (s.exchanged f got left).info1 = s.info1 := State.txDrawn_info1 s
@[simp] theorem State.exchanged_errfunc (s : State) (f got : List Byte) (left : List RxStep) :
    (s.exchanged f got left).errfunc = s.errfunc := State.txDrawn_errfunc s
@[simp] theorem State.exchanged_errlen (s : State) (f got : List Byte) (left : List RxStep) :
    (s.exchanged f got left).errlen = s.errlen := State.txDrawn_errlen s
@[simp] theorem State.exchanged_echoaddr (s : State) (f got : List Byte) (left : List RxStep) :
    (s.exchanged f got left).echoaddr = s.echoaddr := State.txDrawn_echoaddr s
@[simp] theorem State.exchanged_echocnt (s : State) (f got : List Byte) (left : List RxStep) :
    (s.exchanged f got left).echocnt = s.echocnt := State.txDrawn_echocnt s
@[simp] theorem State.exchanged_rdcnt (s : State) (f got : List Byte) (left : List RxStep) :
    (s.exchanged f got left).rdcnt = s.rdcnt := State.txDrawn_rdcnt s
@[simp] theorem State.exchanged_segcnt (s : State) (f got : List Byte) (left : List RxStep) :
    (s.exchanged f got left).segcnt = 1 := rfl
@[simp] theorem State.exchanged_seq (s : State) (f got : List Byte) (left : List RxStep) :
    (s.exchanged f got left).seq = s.seq := State.txDrawn_seq s
@[simp] theorem State.exchanged_cur (s : State) (f got : List Byte) (left : List RxStep) :
    (s.exchanged f got left).cur = s.cur := State.txDrawn_cur s
@[simp] theorem State.exchanged_rem (s : State) (f got : List Byte) (left : List RxStep) :
    (s.exchanged f got left).rem = s.rem := State.txDrawn_rem s
@[simp] theorem State.exchanged_rxacc (s : State) (f got : List Byte) (left : List RxStep) :
    (s.exchanged f got left).rxacc = accumulate [] got := rfl
@[simp] theorem State.exchanged_errbuf (s : State) (f got : List Byte) (left : List RxStep) :
    (s.exchanged f got left).errbuf = s.errbuf := State.txDrawn_errbuf s
@[simp] theorem State.exchanged_rdb (s : State) (f got : List Byte) (left : List RxStep) :
    (s.exchanged f got left).rdb = s.rdb := State.txDrawn_rdb s
@[simp] theorem State.exchanged_gt (s : State) (f got : List Byte) (left : List RxStep) :
    (s.exchanged f got left).gt = s.gt := State.txDrawn_gt s
@[simp] theorem State.exchanged_ucr (s : State) (f got : List Byte) (left : List RxStep) :
    (s.exchanged f got left).ucr = s.ucr := State.txDrawn_ucr s
@[simp] theorem State.exchanged_bdur (s : State) (f got : List Byte) (left : List RxStep) :
    (s.exchanged f got left).bdur = s.bdur := State.txDrawn_bdur s
@[simp] theorem State.exchanged_rl (s : State) (f got : List Byte) (left : List RxStep) :
    (s.exchanged f got left).rl = s.rl := State.txDrawn_rl s
@[simp] theorem State.exchanged_eqf (s : State) (f got : List Byte) (left : List RxStep) :
    (s.exchanged f got left).eqf = s.eqf := State.txDrawn_eqf s
@[simp] theorem State.exchanged_tsw0 (s : State) (f got : List Byte) (left : List RxStep) :
    (s.exchanged f got left).tsw0 = s.tsw0 := State.txDrawn_tsw0 s
@[simp] theorem State.exchanged_tsw1 (s : State) (f got : List Byte) (left : List RxStep) :
    (s.exchanged f got left).tsw1 = s.tsw1 := State.txDrawn_tsw1 s
@[simp] theorem State.exchanged_tsw2 (s : State) (f got : List Byte) (left : List RxStep) :
    (s.exchanged f got left).tsw2 = s.tsw2 := State.txDrawn_tsw2 s
@[simp] theorem State.exchanged_tssec (s : State) (f got : List Byte) (left : List RxStep) :
    (s.exchanged f got left).tssec = s.tssec := State.txDrawn_tssec s
@[simp] theorem State.exchanged_tsms (s : State) (f got : List Byte) (left : List RxStep) :
    (s.exchanged f got left).tsms = s.tsms := State.txDrawn_tsms s
@[simp] theorem State.exchanged_scr (s : State) (f got : List Byte) (left : List RxStep) :
    (s.exchanged f got left).scr = s.scr := State.txDrawn_scr s
@[simp] theorem State.exchanged_pr (s : State) (f got : List Byte) (left : List RxStep) :
    (s.exchanged f got left).pr = s.pr := State.txDrawn_pr s
@[simp] theorem State.exchanged_prv (s : State) (f got : List Byte) (left : List RxStep) :
    (s.exchanged f got left).prv = s.prv := State.txDrawn_prv s
@[simp] theorem State.exchanged_pend (s : State) (f got : List Byte) (left : List RxStep) :
    (s.exchanged f got left).pend = s.pend := State.txDrawn_pend s
@[simp] theorem State.exchanged_inbox (s : State) (f got : List Byte) (left : List RxStep) :
    (s.exchanged f got left).inbox = s.inbox := State.txDrawn_inbox s
@[simp] theorem State.exchanged_sent (s : State) (f got : List Byte) (left : List RxStep) :
    (s.exchanged f got left).sent = s.sent ++ f := rfl
@[simp] theorem State.exchanged_env (s : State) (f got : List Byte) (left : List RxStep) :
    (s.exchanged f got left).env = { s.env with tx := s.env.tx.tail, rx := left } := by
  simp [State.exchanged]
@[simp] theorem State.exchanged_draws (s : State) (f got : List Byte) (left : List RxStep) :
    (s.exchanged f got left).draws = if s.env.tx = [] then s.draws + 1 else s.draws := by
  simp [State.exchanged]

@[simp] theorem State.finished_cfg (s : State) : s.finished.cfg = s.cfg := rfl
@[simp] theorem State.finished_crcr (s : State) : s.finished.crcr = s.crcr := rfl
@[simp] theorem State.finished_hc (s : State) : s.finished.hc = s.hc := rfl
@[simp] theorem State.finished_tmo (s : State) : s.finished.tmo = s.tmo := rfl
@[simp] theorem State.finished_link (s : State) : s.finished.link = s.link := rfl
@[simp] theorem State.finished_busy (s : State) : s.finished.busy = false := rfl
@[simp] theorem State.finished_status (s : State) : s.finished.status = 0 := rfl
@[simp] theorem State.finished_fsticky (s : State) : s.finished.fsticky = s.fsticky := rfl
@[simp] theorem State.finished_info0 (s : State) : s.finished.info0 = s.info0 := rfl
@[simp] theorem State.finished_info1 (s : State) : s.finished.info1 = s.info1 := rfl
@[simp] theorem State.finished_errfunc (s : State) : s.finished.errfunc = s.errfunc := rfl
@[simp] theorem State.finished_errlen (s : State) : s.finished.errlen = s.errlen := rfl
@[simp] theorem State.finished_echoaddr (s : State) : s.finished.echoaddr = s.echoaddr := rfl
@[simp] theorem State.finished_echocnt (s : State) : s.finished.echocnt = s.echocnt := rfl
@[simp] theorem State.finished_rdcnt (s : State) : s.finished.rdcnt = s.rdcnt := rfl
@[simp] theorem State.finished_segcnt (s : State) : s.finished.segcnt = s.segcnt := rfl
@[simp] theorem State.finished_seq (s : State) : s.finished.seq = .idle := rfl
@[simp] theorem State.finished_cur (s : State) : s.finished.cur = s.cur := rfl
@[simp] theorem State.finished_rem (s : State) : s.finished.rem = s.rem := rfl
@[simp] theorem State.finished_rxacc (s : State) : s.finished.rxacc = s.rxacc := rfl
@[simp] theorem State.finished_errbuf (s : State) : s.finished.errbuf = s.errbuf := rfl
@[simp] theorem State.finished_rdb (s : State) : s.finished.rdb = s.rdb := rfl
@[simp] theorem State.finished_gt (s : State) : s.finished.gt = s.gt := rfl
@[simp] theorem State.finished_ucr (s : State) : s.finished.ucr = s.ucr := rfl
@[simp] theorem State.finished_bdur (s : State) : s.finished.bdur = s.bdur := rfl
@[simp] theorem State.finished_rl (s : State) : s.finished.rl = s.rl := rfl
@[simp] theorem State.finished_eqf (s : State) : s.finished.eqf = s.eqf := rfl
@[simp] theorem State.finished_tsw0 (s : State) : s.finished.tsw0 = s.tsw0 := rfl
@[simp] theorem State.finished_tsw1 (s : State) : s.finished.tsw1 = s.tsw1 := rfl
@[simp] theorem State.finished_tsw2 (s : State) : s.finished.tsw2 = s.tsw2 := rfl
@[simp] theorem State.finished_tssec (s : State) : s.finished.tssec = s.tssec := rfl
@[simp] theorem State.finished_tsms (s : State) : s.finished.tsms = s.tsms := rfl
@[simp] theorem State.finished_scr (s : State) : s.finished.scr = s.scr := rfl
@[simp] theorem State.finished_pr (s : State) : s.finished.pr = s.pr := rfl
@[simp] theorem State.finished_prv (s : State) : s.finished.prv = s.prv := rfl
@[simp] theorem State.finished_pend (s : State) : s.finished.pend = none := rfl
@[simp] theorem State.finished_inbox (s : State) : s.finished.inbox = s.inbox := rfl
@[simp] theorem State.finished_sent (s : State) : s.finished.sent = s.sent := rfl
@[simp] theorem State.finished_env (s : State) : s.finished.env = s.env := rfl
@[simp] theorem State.finished_draws (s : State) : s.finished.draws = s.draws := rfl

/-! ### Receiving what arrives -/

theorem streamBytes_append (a b : List RxStep) : streamBytes (a ++ b) = streamBytes a ++ streamBytes b := by
  induction a with
  | nil => rfl
  | cons e es ih =>
    obtain ⟨x, y⟩ := e
    cases x <;> simp [streamBytes, ih]

/-- The loop of `Rx` over a stream that delivers: the bytes asked for, the rest still waiting. -/
theorem rxLoop_arrives (n : Nat) (rest : List RxStep) (es : List RxStep) : ∀ (acc bytes : List Byte), acc.length < n →
    n ≤ acc.length + bytes.length → Arrives es bytes →
    ∃ left, Arrives left (bytes.drop (n - acc.length)) ∧
      rxLoop n acc (es ++ rest) = .full (acc ++ bytes.take (n - acc.length)) (left ++ rest) := by
  induction es with
  | nil =>
    intro acc bytes ha hn h
    obtain ⟨-, h⟩ := h
    subst h
    simp only [streamBytes, List.length_nil] at hn
    omega
  | cons e es ih =>
    intro acc bytes ha hn h
    obtain ⟨a, x⟩ := e
    obtain ⟨hall, hb⟩ := h
    have he := hall ⟨a, x⟩ (by simp)
    have hes : ∀ e ∈ es, e.answer ≠ .closed ∧ e.expired = false := fun y hy => hall y (by simp [hy])
    obtain ⟨hc, hx⟩ := he
    simp only at hc hx
    subst hx
    cases a with
    | closed => exact absurd rfl hc
    | none =>
      obtain ⟨left, hl, hr⟩ := ih acc bytes ha hn ⟨hes, hb⟩
      exact ⟨left, hl, by simpa [rxLoop] using hr⟩
    | data bs =>
      simp only [streamBytes] at hb
      by_cases hlen : n - acc.length ≤ bs.length
      · have hfull : (acc ++ bs.take (n - acc.length)).length = n := by simp; omega
        have htake : bytes.take (n - acc.length) = bs.take (n - acc.length) := by
          rw [← hb, List.take_append_of_le_length hlen]
        have hdrop : bytes.drop (n - acc.length) = bs.drop (n - acc.length) ++ streamBytes es := by
          rw [← hb, List.drop_append_of_le_length hlen]
        rw [htake, hdrop]
        simp only [List.cons_append, rxLoop, if_pos hfull]
        by_cases hleft : bs.drop (n - acc.length) = []
        · exact ⟨es, ⟨hes, by simp [hleft]⟩, by simp [hleft]⟩
        · refine ⟨⟨.data (bs.drop (n - acc.length)), false⟩ :: es, ⟨?_, rfl⟩, by simp [hleft]⟩
          intro y hy
          rcases List.mem_cons.1 hy with rfl | hy
          · exact ⟨by simp, rfl⟩
          · exact hes y hy
      · have hnot : ¬(acc ++ bs.take (n - acc.length)).length = n := by simp; omega
        have hbs : bs.take (n - acc.length) = bs := List.take_of_length_le (by omega)
        simp only [List.cons_append, rxLoop, if_neg hnot, Bool.false_eq_true, if_false]
        rw [hbs]
        have hlb : bytes.length = bs.length + (streamBytes es).length := by rw [← hb]; simp
        obtain ⟨left, hl, hr⟩ := ih (acc ++ bs) (streamBytes es) (by simp; omega) (by simp; omega) ⟨hes, rfl⟩
        refine ⟨left, ?_, ?_⟩
        · have : bytes.drop (n - acc.length) = (streamBytes es).drop (n - (acc ++ bs).length) := by
            rw [← hb, List.drop_append, List.drop_of_length_le (by omega : bs.length ≤ n - acc.length)]
            simp [Nat.sub_sub]
          rw [this]; exact hl
        · rw [hr, ← hb, List.take_append, List.take_of_length_le (by omega : bs.length ≤ n - acc.length)]
          simp [Nat.sub_sub]

/-- `Rx(n, bound)` over a stream that delivers. A read of nothing leaves `RXACC` as it is. -/
theorem receive_arrives (n : Nat) (bound : Rat) (s : State) (bytes : List Byte) (es rest : List RxStep)
    (hn : n ≤ bytes.length) (hx : n = 0 → s.rxacc.length ≤ rxaccBytes) (ha : Arrives es bytes)
    (hs : s.env.rx = es ++ rest) :
    ∃ left, Arrives left (bytes.drop n) ∧
      receive n bound s = .ok (bytes.take n) (s.rxDone false (bytes.take n) (left ++ rest)) := by
  by_cases h0 : n = 0
  · subst h0
    refine ⟨es, by simpa using ha, ?_⟩
    simp only [receive, List.take_zero, ← hs]
    have hx := accumulate_of_fits (a := s.rxacc) (b := []) (by simpa using hx rfl)
    simp [State.rxDone, hx]
  · obtain ⟨left, hl, hr⟩ := rxLoop_arrives n rest es [] bytes (by simp; omega) (by simpa using hn) ha
    simp only [List.length_nil, Nat.sub_zero, List.nil_append] at hl hr
    refine ⟨left, hl, ?_⟩
    simp [receive, h0, State.rxEnd, State.rxFree, hs, hr]

/-- What is left of a stream that breaks off, after a read that got its bytes. -/
theorem receive_beforeBreak (n : Nat) (bound : Rat) (s : State) (bytes : List Byte) (es rest : List RxStep)
    (closed : Bool) (hn : n ≤ bytes.length) (hx : n = 0 → s.rxacc.length ≤ rxaccBytes) (hb : BreaksOff es bytes closed)
    (hs : s.env.rx = es ++ rest) :
    ∃ left, BreaksOff left (bytes.drop n) closed ∧
      receive n bound s = .ok (bytes.take n) (s.rxDone false (bytes.take n) (left ++ rest)) := by
  obtain ⟨pre, e, rfl, ha, he⟩ := hb
  obtain ⟨left, hl, hr⟩ := receive_arrives n bound s bytes pre (e :: rest) hn hx ha (by simpa using hs)
  exact ⟨left ++ [e], ⟨left, e, rfl, hl, he⟩, by simpa using hr⟩

/-- The loop of `Rx` over a stream that delivers too little: it takes all and goes on waiting. -/
theorem rxLoop_short (n : Nat) (tail : List RxStep) (es : List RxStep) : ∀ (acc bytes : List Byte),
    acc.length + bytes.length < n → Arrives es bytes → rxLoop n acc (es ++ tail) = rxLoop n (acc ++ bytes) tail := by
  induction es with
  | nil =>
    rintro acc bytes - ⟨-, rfl⟩
    simp [streamBytes]
  | cons e es ih =>
    rintro acc bytes hn ⟨hall, rfl⟩
    obtain ⟨a, x⟩ := e
    obtain ⟨hc, rfl⟩ := hall ⟨a, x⟩ (by simp)
    have hes : ∀ e ∈ es, e.answer ≠ .closed ∧ e.expired = false := fun y hy => hall y (by simp [hy])
    cases a with
    | closed => exact absurd rfl hc
    | none => simpa [rxLoop, streamBytes] using ih acc _ (by simpa [streamBytes] using hn) ⟨hes, rfl⟩
    | data bs =>
      simp only [streamBytes, List.length_append] at hn
      have hbs : bs.take (n - acc.length) = bs := List.take_of_length_le (by omega)
      have hne : ¬(acc ++ bs).length = n := by simp; omega
      simp only [List.cons_append, rxLoop, hbs, if_neg hne, Bool.false_eq_true, if_false, streamBytes]
      rw [ih (acc ++ bs) _ (by simp; omega) ⟨hes, rfl⟩, List.append_assoc]

/-- `Rx(n, bound)` over a stream that breaks off before `n` bytes (41_transport.md R165). -/
theorem receive_breaksOff (n : Nat) (bound : Rat) (s : State) (bytes : List Byte) (es rest : List RxStep)
    (closed : Bool) (hn : bytes.length < n) (hb : BreaksOff es bytes closed) (hs : s.env.rx = es ++ rest) :
    receive n bound s =
      .error () ((s.rxDone false bytes rest).raise (shortCause closed bytes.length) n bytes.length) := by
  obtain ⟨pre, ⟨a, x⟩, rfl, ha, he⟩ := hb
  have hl := rxLoop_short n (⟨a, x⟩ :: rest) pre [] bytes (by simpa using hn) ha
  have h0 : n ≠ 0 := by omega
  cases closed with
  | true =>
    obtain rfl : a = .closed := by simpa using he
    simp only [rxLoop, List.nil_append] at hl
    simp [receive, h0, State.rxEnd, State.rxFree, hs, hl, shortCause]
  | false =>
    obtain ⟨rfl, rfl⟩ : a = .none ∧ x = true := by simpa using he
    simp only [rxLoop, List.nil_append, if_true] at hl
    simp [receive, h0, State.rxEnd, State.rxFree, hs, hl, shortCause]

/-- Two reads one after the other see one stream. -/
theorem State.rxDone_rxDone (s : State) (a b : List Byte) (r r' : List RxStep) :
    (s.rxDone false a r).rxDone false b r' = s.rxDone false (a ++ b) r' := by
  simp [State.rxDone]

/-! ### A read transaction -/

theorem beginRead_ready (s : State) (addr count : Word) (bound : Rat) (h : s.Ready addr count.toNat 125) :
    beginRead addr count bound s = .ok () { s.exchanged (readRequest s.cfg.slaveAddr addr count) [] s.env.rx with
      rdcnt := 0, busy := true, seq := .rx1, pend := some ⟨.read count, bound⟩ } := by
  obtain ⟨hc, ha, hl, ht⟩ := h
  simp only [beginRead, update_bind, checkCount_bind, checkAddr_bind, checkLink_bind, maxRd, if_pos hc, if_pos ha,
      if_pos hl,
    startTransaction_bind, sendRead, inspect_bind, sendRequest]
  rcases transmit_cases (sealFrame (readBody s.cfg.slaveAddr addr count))
      { s with rdcnt := 0, segcnt := 1, busy := true, rxacc := [], seq := .tx } with ⟨-, hok⟩ | ⟨n, hn, -⟩
  · rw [show ((0 : BitVec 16) + 1) = 1 from rfl, engine_bind_ok hok, update_apply]
    simp [State.exchanged, readRequest]
  · change s.txAnswer = _ at hn; rw [ht] at hn; cases hn

theorem receiveRead_head (count : Word) (bound : Rat) (s : State) (sl fn bc : Byte) (tail : List Byte)
    (es rest : List RxStep) (ha : Arrives es ([sl, fn, bc] ++ tail)) (hs : s.env.rx = es ++ rest) :
    ∃ left, Arrives left tail ∧
      let s1 := ({ s with seq := .rx1 } : State).rxDone false [sl, fn, bc] (left ++ rest)
      receiveRead count bound s =
        if s.AcceptsSlave sl then
          if fn = fcRead then
            (do
              moveSeq .rx2
              let t ← receive (bc.toNat + 2) bound
              moveSeq .check
              let f := [sl, fn, bc] ++ t
              let c := crc16 (f.take (3 + bc.toNat))
              require (crcMatches c (byteAt f (3 + bc.toNat)) (byteAt f (4 + bc.toNat)) = true) .crcMismatch c.toNat
                  (crcAt f (3 + bc.toNat)).toNat
              require (bc.toNat = 2 * count.toNat) .badByteCount bc.toNat count.toNat
              return bytesToWords (t.take bc.toNat) : Engine (List Word)) s1
          else .error () (s1.raise .wrongFunction fn.toNat 0)
        else .error () (s1.raise .wrongSlave sl.toNat 0) := by
  obtain ⟨left, hl, hr⟩ := receive_arrives 3 bound { s with seq := .rx1 } _ es rest (by simp) (by simp) ha hs
  refine ⟨left, by simpa using hl, ?_⟩
  simp only [receiveRead, moveSeq_bind, engine_bind_ok hr, checkSlave_bind, require_bind]
  rfl

theorem receiveRead_tail (count : Word) (bound : Rat) (s : State) (sl fn bc : Byte) (payload more : List Byte) (lo hi :
    Byte)
    (es rest : List RxStep) (ha : Arrives es (payload ++ [lo, hi] ++ more)) (hs : s.env.rx = es ++ rest) (hp :
        payload.length = bc.toNat) :
    ∃ left, Arrives left more ∧
      let body := [sl, fn, bc] ++ payload
      let s1 := ({ s with seq := .check } : State).rxDone false (payload ++ [lo, hi]) (left ++ rest)
      (do
          moveSeq .rx2
          let t ← receive (bc.toNat + 2) bound
          moveSeq .check
          let f := [sl, fn, bc] ++ t
          let c := crc16 (f.take (3 + bc.toNat))
          require (crcMatches c (byteAt f (3 + bc.toNat)) (byteAt f (4 + bc.toNat)) = true) .crcMismatch c.toNat (crcAt
              f (3 + bc.toNat)).toNat
          require (bc.toNat = 2 * count.toNat) .badByteCount bc.toNat count.toNat
          return bytesToWords (t.take bc.toNat) : Engine (List Word)) s =
      if lo = lo8 (crc16 body) ∧ hi = hi8 (crc16 body) then
        if bc.toNat = 2 * count.toNat then .ok (bytesToWords payload) s1
        else .error () (s1.raise .badByteCount bc.toNat count.toNat)
      else .error () (s1.raise .crcMismatch (crc16 body).toNat (ofOctets hi lo).toNat) := by
  obtain ⟨left, hl, hr⟩ := receive_arrives (bc.toNat + 2) bound { s with seq := .rx2 } _ es rest (by simp; omega) (by simp)
    ha hs
  have e1 : (payload ++ [lo, hi] ++ more).take (bc.toNat + 2) = payload ++ [lo, hi] := by
    rw [List.take_append_of_le_length (by simp; omega), List.take_of_length_le (by simp; omega)]
  have e2 : (payload ++ [lo, hi] ++ more).drop (bc.toNat + 2) = more := by
    rw [List.drop_append_of_le_length (by simp; omega), List.drop_of_length_le (by simp; omega)]; rfl
  rw [e1] at hr; rw [e2] at hl
  refine ⟨left, hl, ?_⟩
  simp only [moveSeq_bind, engine_bind_ok hr, require_bind]
  have hb : ([sl, fn, bc] ++ payload).length = 3 + bc.toNat := by simp; omega
  have f1 : ([sl, fn, bc] ++ (payload ++ [lo, hi])).take (3 + bc.toNat) = [sl, fn, bc] ++ payload := by
    rw [← List.append_assoc, List.take_append_of_le_length (le_of_eq hb.symm), List.take_of_length_le (le_of_eq hb)]
  have f2 : byteAt ([sl, fn, bc] ++ (payload ++ [lo, hi])) (3 + bc.toNat) = lo := by
    rw [← List.append_assoc, ← hb, ← Nat.add_zero (List.length _), byteAt_append_right]; rfl
  have f3 : byteAt ([sl, fn, bc] ++ (payload ++ [lo, hi])) (4 + bc.toNat) = hi := by
    rw [← List.append_assoc, show 4 + bc.toNat = ([sl, fn, bc] ++ payload).length + 1 by rw [hb]; omega,
        byteAt_append_right]; rfl
  have f3' : byteAt ([sl, fn, bc] ++ (payload ++ [lo, hi])) (3 + bc.toNat + 1) = hi := by
    rw [show 3 + bc.toNat + 1 = 4 + bc.toNat by omega]; exact f3
  have f4 : (payload ++ [lo, hi]).take bc.toNat = payload := by
    rw [List.take_append_of_le_length (by omega), List.take_of_length_le (by omega)]
  simp only [f1, f2, f3, f3', f4, crcAt, crcMatches, Bool.and_eq_true, beq_iff_eq]
  rfl

theorem receiveRead_all (count : Word) (bound : Rat) (s : State) (sl fn bc : Byte) (payload more : List Byte) (lo hi :
    Byte)
    (es rest : List RxStep) (ha : Arrives es ([sl, fn, bc] ++ payload ++ [lo, hi] ++ more)) (hs : s.env.rx = es ++
        rest) (hp : payload.length = bc.toNat) :
    ∃ left l2, let body := [sl, fn, bc] ++ payload
      let s1 := ({ s with seq := .rx1 } : State).rxDone false [sl, fn, bc] (left ++ rest)
      let s2 := ({ s with seq := .check } : State).rxDone false ([sl, fn, bc] ++ payload ++ [lo, hi]) (l2 ++ rest)
      Arrives left (payload ++ [lo, hi] ++ more) ∧ Arrives l2 more ∧
      receiveRead count bound s =
      if s.AcceptsSlave sl then
        if fn = fcRead then
      if lo = lo8 (crc16 body) ∧ hi = hi8 (crc16 body) then
        if bc.toNat = 2 * count.toNat then .ok (bytesToWords payload) s2
        else .error () (s2.raise .badByteCount bc.toNat count.toNat)
      else .error () (s2.raise .crcMismatch (crc16 body).toNat (ofOctets hi lo).toNat)
        else .error () (s1.raise .wrongFunction fn.toNat 0)
      else .error () (s1.raise .wrongSlave sl.toNat 0) := by
  have ha' : Arrives es ([sl, fn, bc] ++ (payload ++ [lo, hi] ++ more)) := by simpa using ha
  obtain ⟨left, hl, hr⟩ := receiveRead_head count bound s sl fn bc _ es rest ha' hs
  obtain ⟨l2, hl2, hr2⟩ := receiveRead_tail count bound (({ s with seq := .rx1 } : State).rxDone false [sl, fn, bc]
      (left ++ rest)) sl fn bc payload more lo hi left rest hl rfl hp
  refine ⟨left, l2, hl, hl2, ?_⟩
  rw [hr, hr2]
  have e : ({ ({ s with seq := .rx1 } : State).rxDone false [sl, fn, bc] (left ++ rest) with seq := .check } :
      State).rxDone false (payload ++ [lo, hi]) (l2 ++ rest) = ({ s with seq := .check } : State).rxDone false ([sl,
      fn, bc] ++ payload ++ [lo, hi]) (l2 ++ rest) := by
    simp [State.rxDone]
  rw [e]

theorem readReply_eq (sl : Byte) (w : List Word) : readReply sl w =
    [sl, fcRead, BitVec.ofNat 8 (2 * w.length)] ++ wordsToBytes w ++ [lo8 (crc16 ([sl, fcRead, BitVec.ofNat 8 (2 *
        w.length)] ++ wordsToBytes w)), hi8 (crc16 ([sl, fcRead, BitVec.ofNat 8 (2 * w.length)] ++ wordsToBytes w))] :=
        rfl

/-! ### A write transaction -/

theorem beginWrite_ready (s : State) (addr : Word) (v : List Word) (bound : Rat) (h : s.Ready addr v.length 123) :
    beginWrite addr v bound s = .ok () { s.exchanged (writeRequest s.cfg.slaveAddr addr v) [] s.env.rx with
      busy := true, seq := .rx1, pend := some ⟨.write, bound⟩ } := by
  obtain ⟨hc, ha, hl, ht⟩ := h
  simp only [beginWrite, update_bind, checkWrite_bind, checkLink_bind, if_pos hc, if_pos ha,
      if_pos hl,
    startTransaction_bind, sendWrite, inspect_bind, sendRequest]
  rcases transmit_cases (sealFrame (writeBody s.cfg.slaveAddr addr v))
      { s with segcnt := 1, busy := true, rxacc := [], seq := .tx } with ⟨-, hok⟩ | ⟨n, hn, -⟩
  · rw [show ((0 : BitVec 16) + 1) = 1 from rfl, engine_bind_ok hok, update_apply]
    simp [State.exchanged, writeRequest]
  · change s.txAnswer = _ at hn; rw [ht] at hn; cases hn

theorem receiveWrite_head (bound : Rat) (s : State) (sl fn : Byte) (tail : List Byte)
    (es rest : List RxStep) (ha : Arrives es ([sl, fn] ++ tail)) (hs : s.env.rx = es ++ rest) :
    ∃ left, Arrives left tail ∧
      let s1 := ({ s with seq := .rx1 } : State).rxDone false [sl, fn] (left ++ rest)
      receiveWrite bound s =
        if s.AcceptsSlave sl then
          if fn = fcWrite then receiveAck [sl, fn] bound s1 else receiveNak fn bound s1
        else .error () (s1.raise .wrongSlave sl.toNat 0) := by
  obtain ⟨left, hl, hr⟩ := receive_arrives 2 bound { s with seq := .rx1 } _ es rest (by simp) (by simp) ha hs
  refine ⟨left, by simpa using hl, ?_⟩
  simp only [receiveWrite, moveSeq_bind, engine_bind_ok hr, checkSlave_bind]
  change (if _ then (if fn = fcWrite then receiveAck [sl, fn] bound else receiveNak fn bound) _ else _) = _
  by_cases h2 : fn = fcWrite
  · rw [if_pos h2, if_pos h2]; rfl
  · rw [if_neg h2, if_neg h2]; rfl

theorem receiveAck_arrives (bound : Rat) (s : State) (sl lo hi : Byte) (ea ec : Word)
    (es rest : List RxStep) (ha : Arrives es (be16 ea ++ be16 ec ++ [lo, hi])) (hs : s.env.rx = es ++ rest) :
    ∃ left, Arrives left [] ∧
      let ack := [sl, 0x10] ++ be16 ea ++ be16 ec
      let s1 := ({ s with seq := .check } : State).rxDone false (be16 ea ++ be16 ec ++ [lo, hi]) (left ++ rest)
      receiveAck [sl, 0x10] bound s =
        if lo = lo8 (crc16 ack) ∧ hi = hi8 (crc16 ack) then .ok () { s1 with echoaddr := ea, echocnt := ec }
        else .error () (s1.raise .crcMismatch (crc16 ack).toNat (ofOctets hi lo).toNat) := by
  obtain ⟨left, hl, hr⟩ := receive_arrives 6 bound { s with seq := .rx2 } _ es rest (by simp [be16]) (by simp) ha hs
  refine ⟨left, by simpa [be16] using hl, ?_⟩
  simp only [receiveAck, moveSeq_bind, engine_bind_ok hr, require_bind]
  simp only [be16, List.cons_append, List.nil_append, List.take_succ_cons, List.take_zero, byteAt, List.getD_cons_succ,
      List.getD_cons_zero, crcAt, wordAt, crcMatches, Bool.and_eq_true, beq_iff_eq, ofOctets_hi8_lo8, update_apply]
  rfl

theorem receiveNak_arrives (bound : Rat) (s : State) (fn : Byte) (p : List Byte) (hp : p.length ≤ 255)
    (es rest : List RxStep) (ha : Arrives es (BitVec.ofNat 8 p.length :: p)) (hs : s.env.rx = es ++ rest) :
    ∃ left, Arrives left [] ∧
      receiveNak fn bound s = .error () (({
        ({ s with seq := .rx3 } : State).rxDone false (BitVec.ofNat 8 p.length :: p) (left ++ rest) with
        errfunc := fn, errlen := BitVec.ofNat 8 p.length, errbuf := cellsWriteAll s.errbuf 0 p
            } : State).raise .writeNak fn.toNat p.length) := by
  obtain ⟨l1, hl, hr⟩ := receive_arrives 1 bound { s with errfunc := fn, seq := .rx2 } _ es rest (by simp) (by simp) ha hs
  have hl' : Arrives l1 p := by simpa using hl
  have hm : (BitVec.ofNat 8 p.length).toNat = p.length := by simp; omega
  obtain ⟨l2, hl2, hr2⟩ := receive_arrives p.length bound
      { ({ s with errfunc := fn, seq := .rx2 } : State).rxDone false [BitVec.ofNat 8 p.length] (l1 ++ rest) with
        errlen := BitVec.ofNat 8 p.length, seq := .rx3 } p l1 rest le_rfl (fun _ => accumulate_length _ _) hl' rfl
  refine ⟨l2, by simpa using hl2, ?_⟩
  simp only [receiveNak, moveSeq_bind, update_bind, engine_bind_ok hr]
  simp only [List.take_succ_cons, List.take_zero, byteAt, List.getD_cons_zero, hm]
  rw [engine_bind_ok hr2, update_bind, raise_apply]
  simp [State.rxDone, State.raise]

end Sys2Proof.Machine
end

