-- ==== Sys2Proof/Tests/Slice0.lean ====
section
/-! SUPPORT. Tests. Expected values are those of spec/95_test_vectors.md, or written out from the rule named. A witness
shows values that meet every hypothesis of the statement it names. -/

namespace Sys2Proof.Tests

set_option Elab.async false

open Machine

/-! ### States and checks -/

/-- The next state of an outcome has a property. -/
def gives (o : Host.Outcome State Fault Refusal) (p : State → Bool) : Bool :=
  match o with
  | .next t => p t
  | .fault _ | .refused _ => false

/-- The link open, three frames accepted, then these bytes on the line and silence until the bound passes. -/
def linked (bytes : List Byte) : State :=
  { State.reset with link := true, env := ⟨[.ok, .ok, .ok], [⟨.data bytes, false⟩, ⟨.none, true⟩], []⟩ }

/-- Slot 0 loaded. -/
def loaded (h : HwConfig) : State := { State.reset with hc := [⟨true, h⟩, ⟨false, HwConfig.unloaded⟩] }

/-- Something is presented. -/
def presented (s : State) (e : List Event) : State := { s with inbox := e }

/-- Scenario A (95 section 1.3). -/
def scenarioA : AcousticConfig :=
  ⟨1000000, 4000, 64, 0, 1 / 100, 5 / 1000, 50, 40, 0, false, false, false, false, 8, 0⟩

/-- Its 17 words (95 section 1.3). -/
def scenarioAWords : HwConfig := ⟨35, 64, 250, 0, 50, 14, 7, 702, 0, 0, 0, 0, 0, 0, 8, 1241, 0⟩

/-- Vector K2 (95 section 2.6). -/
def vectorK2 : AcousticConfig :=
  ⟨3000000, 1200, 128, 4 / 100, 1 / 10, 2 / 100, 100, 30, 50, true, true, false, true, 4, -1 / 4⟩

/-- The configuration of the profile vectors (95 section 2.8). -/
def profileConfig : HwConfig := ⟨35, 64, 250, 0, 3, 14, 7, 702, 0, 0, 0, 0, 0, 0, 8, 1241, 0⟩

/-- The block of 46 bytes (95 section 2.8). -/
def profileBlock : List Byte :=
  [0x25, 0x9E, 0x4E, 0xC0, 0x01, 0xF4, 0x00, 0x0A, 0xFF, 0xEC, 0x00, 0xD7, 0x05, 0xC8, 0x02, 0xBE, 0x00, 0x00, 0x00,
    0x0C, 0x00, 0x07] ++
  [0x03, 0xE8, 0x00, 0x32, 0x07, 0xD0, 0x00, 0x99, 0xF8, 0x30, 0xFF, 0xC4, 0x05, 0xDC, 0x00, 0x57, 0x00, 0x00, 0x00,
    0x00, 0xF0, 0x00, 0xFF, 0xF1]

/-! ### Ill-formed terms are refused (30_encoding.md R92 to R96, R99, R102) -/

theorem test_illFormed_wrW (v : List Word) (h : v.length = 65536) : (Instr.wrW 0 v none).wellFormed = false := by
  simp [Instr.wellFormed, h]
theorem test_illFormed_wrBuf (v : List Word) (h : v.length = 65536) : (Instr.wrBuf 0 v none).wellFormed = false := by
  simp [Instr.wellFormed, h]
theorem test_illFormed_cfgFromRegs (v : List Word) (h : v.length = 65536) : (Instr.cfgFromRegs 0 v).wellFormed = false := by
  simp [Instr.wellFormed, h]
theorem test_illFormed_profDec (pb : List Byte) (h : pb.length = 262159) : (Instr.profDec pb 0).wellFormed = false := by
  simp [Instr.wellFormed, profileHeadWords, h]
theorem test_illFormed_rdreq_count0 : (Instr.rdreq 0 0).wellFormed = false := by decide
theorem test_illFormed_rdreq_count126 : (Instr.rdreq 0 126).wellFormed = false := by decide
theorem test_illFormed_rdreq_range : (Instr.rdreq 0xFFFF 2).wellFormed = false := by decide
theorem test_illFormed_rdrsp : (Instr.rdrsp 4 (List.replicate 256 0) 0).wellFormed = false := by decide +kernel
theorem test_illFormed_wrreq_empty : (Instr.wrreq 0 []).wellFormed = false := by decide
theorem test_illFormed_wrreq_count124 : (Instr.wrreq 0 (List.replicate 124 0)).wellFormed = false := by decide +kernel
theorem test_illFormed_wrreq_range : (Instr.wrreq 0xFFFF [1, 2]).wellFormed = false := by decide
theorem test_illFormed_wrerr_function : (Instr.wrerr 4 0x10 []).wellFormed = false := by decide
theorem test_illFormed_wrerr_payload : (Instr.wrerr 4 0x90 (List.replicate 256 0)).wellFormed = false := by
  decide +kernel

/-! ### Decoding: a packet written out by hand for every constructor

Commands: the OP byte of 30_encoding.md R100, operands in the serial form of log entry 2. Frames: 95 section 2.2. -/

/-- A command packet decodes to the instruction. -/
abbrev Commands (bytes : List Byte) (i : Instr) : Prop := decode 0x04 ⟨.command, bytes⟩ = .ok i

theorem test_decode_crcCompute : Commands [0x00, 0x02, 0x31, 0x32] (.crcCompute [0x31, 0x32]) := by decide +kernel
theorem test_decode_crcInit : Commands [0x01] .crcInit := by decide +kernel
theorem test_decode_crcUpdate : Commands [0x02, 0x31] (.crcUpdate 0x31) := by decide +kernel
theorem test_decode_crcRead : Commands [0x03] .crcRead := by decide +kernel
theorem test_decode_crcCheck : Commands [0x04, 0x02, 0xFF, 0xFE] (.crcCheck [0xFF, 0xFE]) := by decide +kernel
theorem test_decode_rdW : Commands [0x10, 0xFF, 0xFD, 0x00, 0x02, 0x01, 0x02, 0x01] (.rdW 0xFFFD 2 (some (1 / 2))) := by
  decide +kernel
theorem test_decode_wrW : Commands [0x11, 0xFF, 0xFD, 0x01, 0x00, 0x02, 0x00] (.wrW 0xFFFD [2] none) := by
  decide +kernel
theorem test_decode_rdBuf : Commands [0x12, 0x02, 0x00, 0x82, 0x01, 0x00] (.rdBuf 0x0200 130 none) := by decide +kernel
theorem test_decode_wrBuf : Commands [0x13, 0x01, 0x00, 0x01, 0x12, 0x34, 0x00] (.wrBuf 0x0100 [0x1234] none) := by
  decide +kernel
theorem test_decode_csrRd : Commands [0x1C, 0x06] (.csrRd 0x06) := by decide +kernel
theorem test_decode_csrWr : Commands [0x1D, 0x03, 0x02, 0x01] (.csrWr 0x03 (1 / 2)) := by decide +kernel
theorem test_decode_linkOpen : Commands [0x1E] .linkOpen := by decide +kernel
theorem test_decode_linkClose : Commands [0x1F] .linkClose := by decide +kernel
theorem test_decode_castS16 : Commands [0x20, 0x05, 0x00] (.castS16 (-3)) := by decide +kernel
theorem test_decode_castU16 : Commands [0x21, 0x0A, 0x01] (.castU16 (5 / 2)) := by decide +kernel
theorem test_decode_gS2C : Commands [0x30, 0x64, 0x00, 0x02, 0x63] (.gS2C 50 (1 / 100)) := by decide +kernel
theorem test_decode_gC2S : Commands [0x31, 0xC8, 0x01, 0x00, 0x02, 0x63] (.gC2S 100 (1 / 100)) := by decide +kernel
theorem test_decode_gI2C : Commands [0x32, 0x50, 0x00] (.gI2C 40) := by decide +kernel
theorem test_decode_gC2I : Commands [0x33, 0x64, 0x00] (.gC2I 50) := by decide +kernel
theorem test_decode_gTable :
    Commands [0x34, 0x03, 0xE8, 0x07, 0x00, 0x20, 0x00, 0x02, 0x00, 0x04, 0x00] (.gTable 3 500 16 1 2) := by
  decide +kernel
theorem test_decode_cfgFromUser :
    Commands [0x40, 0x00, 0x02, 0x00, 0x04, 0x00, 0x06, 0x00, 0x00, 0x02, 0x01, 0x08, 0x00, 0x01, 0x0A, 0x00, 0x01,
      0x00, 0x01, 0x00, 0x01, 0x00, 0x02, 0x0C, 0x00, 0x0E, 0x00, 0x01, 0x10, 0x00, 0x12, 0x00]
      (.cfgFromUser 0 ⟨1, 2, 3, 0, 1 / 2, 4, -1, 5, -1, true, false, true, false, 1, 6⟩ 7 (some ⟨8, 9⟩)) := by
  decide +kernel
theorem test_decode_cfgFromRegs : Commands [0x41, 0x01, 0x02, 0xFF, 0xFE, 0x00, 0x02] (.cfgFromRegs 1 [0xFFFE, 2]) := by
  decide +kernel
theorem test_decode_cfgToRegs : Commands [0x42, 0x01] (.cfgToRegs 1) := by decide +kernel
theorem test_decode_cfgToUser : Commands [0x43, 0x01, 0x06, 0x00] (.cfgToUser 1 3) := by decide +kernel
theorem test_decode_cfgBlockDur : Commands [0x44, 0x01] (.cfgBlockDur 1) := by decide +kernel
theorem test_decode_cfgEq : Commands [0x45, 0x00, 0x01] (.cfgEq 0 1) := by decide +kernel
theorem test_decode_tsEnc : Commands [0x50, 0x01, 0xCE, 0x0F] (.tsEnc (-1) 999) := by decide +kernel
theorem test_decode_tsDec : Commands [0x51, 0x25, 0x9E, 0x4E, 0xC0, 0x01, 0xF4] (.tsDec 0x259E 0x4EC0 0x01F4) := by
  decide +kernel
theorem test_decode_profDec : Commands [0x60, 0x02, 0xAA, 0xBB, 0x01] (.profDec [0xAA, 0xBB] 1) := by decide +kernel
theorem test_decode_rdreq :
    decode 0x04 ⟨.request, [0x04, 0x03, 0x03, 0x00, 0x00, 0x17, 0x05, 0xD5]⟩ = .ok (.rdreq 0x0300 23) := by
  decide +kernel
theorem test_decode_rdrsp : decode 0x04 ⟨.readReply, [0x04, 0x03, 0x04, 0xFF, 0xFE, 0x7F, 0xFF, 0x9E, 0xA7]⟩ =
    .ok (.rdrsp 0x04 [0xFF, 0xFE, 0x7F, 0xFF] 0xA79E) := by decide +kernel
theorem test_decode_wrreq : decode 0x04 ⟨.request, [0x04, 0x10, 0x03, 0x00, 0x00, 0x01, 0x02, 0x00, 0x01, 0x6B, 0xC0]⟩ =
    .ok (.wrreq 0x0300 [1]) := by decide +kernel
theorem test_decode_wrack : decode 0x04 ⟨.writeReply, [0x04, 0x10, 0x01, 0x00, 0x00, 0x11, 0x01, 0xAC]⟩ =
    .ok (.wrack 0x04 0x0100 17 0xAC01) := by decide +kernel
theorem test_decode_wrerr : decode 0x04 ⟨.writeReply, [0x04, 0x90, 0x02, 0x01, 0x07]⟩ =
    .ok (.wrerr 0x04 0x90 [0x01, 0x07]) := by decide +kernel
theorem test_decode_wrCfg : decode 0x04 ⟨.pseudo, [0x00, 0x01, 0x01, 0x02]⟩ = .ok (.wrCfg 1 0x0102) := by decide +kernel
theorem test_decode_rdCfg : decode 0x04 ⟨.pseudo, [0x01, 0x01, 0x01, 0x02]⟩ = .ok (.rdCfg 1 0x0102) := by decide +kernel
theorem test_decode_rdProf : decode 0x04 ⟨.pseudo, [0x02, 0x00, 0x03, 0x00]⟩ = .ok (.rdProf 0 0x0300) := by
  decide +kernel

/-- R101: 0x05 is unassigned. -/
theorem test_decode_unassigned : decode 0x04 ⟨.command, [0x05, 0x00]⟩ = .error (.badOp 0x05) := by decide +kernel
/-- A missing operand. -/
theorem test_decode_short : decode 0x04 ⟨.command, [0x10, 0xFF]⟩ = .error (.badOperands 0x10) := by decide +kernel
/-- R92: the CRC octets in the wrong order. -/
theorem test_decode_requestSeal :
    decode 0x04 ⟨.request, [0x04, 0x03, 0x00, 0x00, 0x00, 0x01, 0x5F, 0x84]⟩ = .error .badRequest := by decide +kernel
/-- R93: one byte short. -/
theorem test_decode_replyShort : decode 0x04 ⟨.readReply, [0x04, 0x03, 0x02, 0x12, 0x34, 0x79]⟩ = .error .badReply := by
  decide +kernel

/-- Every OP code of 30_encoding.md R100, with operands of zeros, is an instruction. -/
theorem test_tableWords :
    ∀ w ∈ [0x00, 0x01, 0x02, 0x03, 0x04, 0x10, 0x11, 0x12, 0x13, 0x1C, 0x1D, 0x1E, 0x1F, 0x20, 0x21, 0x30, 0x31, 0x32,
      0x33, 0x34, 0x40, 0x41, 0x42, 0x43, 0x44, 0x45, 0x50, 0x51, 0x60], (decodeTableWord 8 w).isSome = true := by
  decide +kernel
/-- A table word runs as the first instruction after reset. -/
theorem test_withFetchWord : step (State.reset.withFetchWord 8 0x1E) = exec .linkOpen State.reset := rfl

/-! ### One step of each instruction -/

/-- 95 section 2.1. -/
theorem test_crcCompute :
    gives (exec (.crcCompute [0x04, 0x03, 0x02, 0x12, 0x34]) State.reset) (fun t => t.scr == 0x3379) = true := by
  decide +kernel
theorem test_crcInit :
    gives (exec .crcInit { State.reset with crcr := 0x1234 }) (fun t => t.crcr == 0xFFFF) = true := by decide +kernel
/-- The step trace's end of 95 section 2.1. -/
theorem test_crcUpdate : gives (exec (.crcUpdate 0x01) State.reset) (fun t => t.crcr == 0x807E) = true := by
  decide +kernel
/-- The table form's example of 95 section 2.1. -/
theorem test_crcStep : crcStep 0x1234 0x56 = 0xE993 := by decide +kernel
theorem test_crcRead : gives (exec .crcRead { State.reset with crcr := 0x5F84 }) (fun t => t.scr == 0x5F84) = true := by
  decide +kernel
theorem test_crcCheck_right :
    gives (exec (.crcCheck [0x04, 0x03, 0x02, 0x12, 0x34, 0x79, 0x33]) State.reset) (fun t => t.eqf) = true := by
  decide +kernel
theorem test_crcCheck_swapped :
    gives (exec (.crcCheck [0x04, 0x03, 0x02, 0x12, 0x34, 0x33, 0x79]) State.reset) (fun t => !t.eqf) = true := by
  decide +kernel

/-- 95 section 2.3. -/
theorem test_rdW :
    gives (exec (.rdW 0x0010 2 none) (linked [0x04, 0x03, 0x04, 0xFF, 0xFE, 0x7F, 0xFF, 0x9E, 0xA7]))
      (fun t => t.status == 0 && t.rdcnt == 2 && t.rdb == [(0, 0xFFFE), (1, 0x7FFF)] && t.segcnt == 1 &&
        t.sent == [0x04, 0x03, 0x00, 0x10, 0x00, 0x02, 0xC5, 0x9B]) = true := by decide +kernel
/-- 95 section 2.3: the payload is four bytes, two arrive before the silence. -/
theorem test_rdW_short :
    gives (exec (.rdW 0x0000 1 none) (linked [0x04, 0x03, 0x02, 0x12, 0x34]))
      (fun t => t.status == 0x42 && t.info0 == 4 && t.info1 == 2 && t.rdcnt == 0 && !t.busy) = true := by
  decide +kernel
/-- 95 section 2.3: an echo of another address is stored, not compared. -/
theorem test_wrW :
    gives (exec (.wrW 0xFFFD [2] none) (linked [0x04, 0x10, 0x01, 0x00, 0x00, 0x11, 0x01, 0xAC]))
      (fun t => t.status == 0 && t.echoaddr == 0x0100 && t.echocnt == 17 &&
        t.sent == [0x04, 0x10, 0xFF, 0xFD, 0x00, 0x01, 0x02, 0x00, 0x02, 0x02, 0x23]) = true := by decide +kernel
/-- 95 section 2.3: the failure path. -/
theorem test_wrW_nak :
    gives (exec (.wrW 0xFFFD [2] none) (linked [0x04, 0x90, 0x02, 0x01, 0x07]))
      (fun t => t.status == 0x46 && t.info0 == 0x90 && t.info1 == 2 && t.errfunc == 0x90 && t.errlen == 2 &&
        t.errbuf == [(0, 0x01), (1, 0x07)] && t.fsticky == 0b0010) = true := by decide +kernel
/-- 95 section 2.3: nothing to read needs no request, but the link. -/
theorem test_rdBuf_empty :
    gives (exec (.rdBuf 0x0200 0 none) (linked [])) (fun t => t.status == 0 && t.segcnt == 0 && t.sent == []) = true := by
  decide +kernel
set_option maxRecDepth 100000 in
/-- Program P3 of 95: 130 words in two segments of 125 and 5. -/
theorem test_rdBuf_two :
    gives (exec (.rdBuf 0x0200 130 none)
        (linked (segmentReplies 4 (fun a => BitVec.ofNat 16 (0x1000 + (a - 0x0200))) 0x0200 130)))
      (fun t => t.status == 0 && t.segcnt == 2 && t.rdcnt == 130 && cellsRead t.rdb 124 == 0x107C &&
        cellsRead t.rdb 129 == 0x1081 && t.sent == [0x04, 0x03, 0x02, 0x00, 0x00, 0x7D, 0x84, 0x06] ++
          [0x04, 0x03, 0x02, 0x7D, 0x00, 0x05, 0x14, 0x3C]) = true := by decide +kernel
/-- Scenario C of 95: 150 words are refused, not split. -/
theorem test_wrBuf :
    gives (exec (.wrBuf 0x0100 (List.replicate 150 0) none) { linked [] with rdcnt := 5 })
      (fun t => t.status == 0x82 && t.info0 == 150 && t.segcnt == 0 && t.rdcnt == 0 && t.sent == []) = true := by decide +kernel
theorem test_csrRd :
    gives (exec (.csrRd 0x06) { State.reset with status := 0x82 }) (fun t => t.scr == 0x82 && t.status == 0x82) = true := by
  decide +kernel
theorem test_csrRd_outside :
    gives (exec (.csrRd 0x11) State.reset) (fun t => t.status == 0x88 && t.info0 == 0x11) = true := by decide +kernel
theorem test_csrWr :
    gives (exec (.csrWr 0x03 (1 / 2)) State.reset) (fun t => t.tmo == 1 / 2 && t.status == 0) = true := by
  decide +kernel
theorem test_csrWr_readOnly :
    gives (exec (.csrWr 0x00 5) State.reset) (fun t => t.status == 0x88 && t.info0 == 0 && t.cfg.slaveAddr == 4)
      = true := by
  decide +kernel
theorem test_linkOpen :
    gives (exec .linkOpen { State.reset with env := ⟨[], [], [⟨false, 0⟩]⟩ })
      (fun t => t.status == 0x24 && !t.link && t.fsticky == 1) = true := by decide +kernel
theorem test_linkClose : gives (exec .linkClose (linked [])) (fun t => !t.link && t.status == 0) = true := by
  decide +kernel

/-- 95 section 2.4: round first, then clamp; a tie to even. -/
theorem test_castS16 : gives (exec (.castS16 (-173 / 2)) State.reset) (fun t => t.scr == -86) = true := by
  decide +kernel
theorem test_castU16 : gives (exec (.castU16 (131071 / 2)) State.reset) (fun t => t.scr == 65535) = true := by
  decide +kernel
/-- 95 section 2.5. -/
theorem test_gS2C : gives (exec (.gS2C 50 (1 / 100)) State.reset) (fun t => t.scr == 1986 / 10) = true := by
  decide +kernel
theorem test_gC2S : gives (exec (.gC2S 100 (1 / 100)) State.reset) (fun t => t.scr == 2518125 / 100000) = true := by
  decide +kernel
theorem test_gC2S_zero :
    gives (exec (.gC2S 100 0) State.reset) (fun t => t.status == 0x85 && t.scr == 0) = true := by decide +kernel
theorem test_gI2C : gives (exec (.gI2C 0) State.reset) (fun t => t.scr == -2909 / 10) = true := by decide +kernel
theorem test_gI2C_ceiling : gives (exec (.gI2C 100) State.reset) (fun t => t.scr == 1241) = true := by decide +kernel
theorem test_gC2I : gives (exec (.gC2I 702) State.reset) (fun t => t.scr == 4000358 / 100000) = true := by
  decide +kernel
/-- T2 of 95 section 2.5: the dB values behind its six entries. -/
theorem test_gTable :
    gives (exec (.gTable 6 40 160 100 8) State.reset) (fun t => t.gt == [⟨137345 / 10000⟩, ⟨137345 / 10000⟩,
      ⟨141374 / 10000⟩, ⟨145403 / 10000⟩, ⟨149432 / 10000⟩, ⟨153461 / 10000⟩]) = true := by decide +kernel
/-- T6 of 95 section 2.5: the ceiling replaces the law; code 200 is 19.778 dB. -/
theorem test_gTable_ceiling :
    gives (exec (.gTable 2 300 0 200 0) State.reset) (fun t => t.gt == [⟨19778 / 1000⟩, ⟨19778 / 1000⟩]) = true := by
  decide +kernel

/-- K1 of 95 section 2.6. -/
theorem test_cfgFromUser :
    gives (exec (.cfgFromUser 0 scenarioA 1480 none) State.reset)
      (fun t => t.status == 0 && t.hc == [⟨true, scenarioAWords⟩, ⟨false, HwConfig.unloaded⟩]) = true := by
  decide +kernel
/-- K2 of 95 section 2.6. -/
theorem test_cfgFromUser_k2 :
    gives (exec (.cfgFromUser 1 vectorK2 1480 (some ⟨60, 0⟩)) State.reset) (fun t => (t.slotRegs 1).toRegs ==
      [0x000B, 0x0080, 0x09C4, 0x00A2, 0x0064, 0x0144, 0x0051, 0x01C6, 0x018D, 0x0000, 0x93E5, 0x0303, 0x0000, 0x0000,
        0x0004, 0x04AE, 0x0000]) = true := by decide +kernel
theorem test_cfgFromRegs :
    gives (exec (.cfgFromRegs 0 (List.replicate 16 7)) State.reset)
      (fun t => t.status == 0x61 && t.info0 == 16 && !t.slotValid 0) = true := by decide +kernel
theorem test_cfgToRegs :
    gives (exec (.cfgToRegs 0) (loaded scenarioAWords)) (fun t => t.rl ==
      [0x0023, 0x0040, 0x00FA, 0x0000, 0x0032, 0x000E, 0x0007, 0x02BE, 0x0000, 0x0000, 0x0000, 0x0000, 0x0000, 0x0000,
        0x0008, 0x04D9, 0x0000]) = true := by decide +kernel
/-- Scenario A's UCR, 95 section 1.3. -/
theorem test_cfgToUser :
    gives (exec (.cfgToUser 0 1480) (loaded scenarioAWords)) (fun t => t.ucr ==
      ⟨1000000, 4000, 64, 0, 1036 / 100000, 518 / 100000, 50, 4000358 / 100000, 0, false, false, false, false, 8, 0⟩) =
      true := by decide +kernel
/-- K2's UCR, 95 section 2.6. -/
theorem test_cfgToUser_k2 :
    gives (exec (.cfgToUser 0 1480) (loaded ⟨0x000B, 0x0080, 0x09C4, 0x00A2, 0x0064, 0x0144, 0x0051, 0x01C6, 0x018D,
        0x0000, 0x93E5, 0x0303, 0x0000, 0x0000, 0x0004, 0x04AE, 0x0000⟩))
      (fun t => t.ucr == ⟨3000000, 1200, 128, 3996 / 100000, 999 / 10000, 1998 / 100000, 100, 3001166 / 100000,
        533171 / 10656, true, true, false, true, 4, -27306 / 109225⟩) = true := by decide +kernel
theorem test_cfgBlockDur :
    gives (exec (.cfgBlockDur 0) (loaded scenarioAWords)) (fun t => t.bdur == 16 / 125) = true := by decide +kernel
/-- 95 section 2.6: a reserved word is compared. -/
theorem test_cfgEq :
    gives (exec (.cfgEq 0 1) { State.reset with
      hc := [⟨true, scenarioAWords⟩, ⟨true, { scenarioAWords with reserved1 := 1 }⟩], eqf := true })
      (fun t => !t.eqf && t.status == 0) = true := by decide +kernel

/-- 95 section 2.7. -/
theorem test_tsEnc :
    gives (exec (.tsEnc (-32769) 999) State.reset)
      (fun t => t.tsw0 == 0xFFFE && t.tsw1 == 0x7FFF && t.tsw2 == 0x03E7) = true := by decide +kernel
theorem test_tsEnc_secFirst :
    gives (exec (.tsEnc 1073741824 1000) State.reset) (fun t => t.status == 0x86 && t.info0 == 0) = true := by
  decide +kernel
theorem test_tsDec :
    gives (exec (.tsDec 0x8000 0x7FFF 0x03E7) State.reset) (fun t => t.tssec == -1073709057 && t.tsms == 999) = true := by
  decide +kernel
theorem test_tsDec_negative :
    gives (exec (.tsDec 0x0001 0xFFFB 0x0000) State.reset) (fun t => t.tssec == -5 && t.tsms == 0) = true := by
  decide +kernel

/-- 95 section 2.8: everything but the amplitudes. -/
theorem test_profDec :
    gives (exec (.profDec profileBlock 0) (loaded profileConfig)) (fun t => t.status == 0 && t.prv && t.prn == 3 &&
      t.pr.sec == 315576000 && t.pr.ms == 500 && t.pr.hdr == ⟨10, -20, 215, 1480, 702, 0, 12, 7⟩ &&
      t.pr.cells.map (·.vel) == [1184 / 13107, -2368 / 13107, 0] &&
      t.pr.cells.map (·.std) == [296 / 65535, 592 / 109225, 0] && t.pr.cells.map (·.wrap) == [false, true, false] &&
      t.pr.cells.map (·.sat) == [false, false, true] && t.pr.cells.map (·.snr) == [153 / 10, 87 / 10, -15 / 10]) =
      true := by decide +kernel
/-- 95 section 2.8: one byte short. -/
theorem test_profDec_short :
    gives (exec (.profDec (profileBlock.take 45) 0) (loaded profileConfig))
      (fun t => t.status == 0x62 && t.info0 == 46 && t.info1 == 45 && !t.prv) = true := by decide +kernel

/-! Operations shared by several instructions. -/

/-- 10_state.md R28: of 3 and 257 bytes 258 are kept. -/
theorem test_accumulate_bounded :
    accumulate [1, 2, 3] (List.replicate 257 7) = [1, 2, 3] ++ List.replicate 255 7 := by decide +kernel
/-- R181: a payload cut short leaves `ERRBUF`, and `ERRLEN` is what was read (R184). -/
theorem test_receiveNak_cut :
    (match receiveNak 0x90 0 { linked [0x02, 0x01] with errbuf := [(0, 9)] } with
      | .ok _ _ => false
      | .error _ t => t.status == 0x42 && t.errfunc == 0x90 && t.errlen == 2 && t.errbuf == [(0, 9)] &&
          t.rxacc == [0x02, 0x01]) = true := by decide +kernel
/-- R300: under `binary64` as well a sound speed of 0 gives zeros, and so does a raw amplitude of 0. -/
theorem test_profileCell_zero :
    let c := profileCell { Config.default with num := .binary64 }
      (velocityFactor { Config.default with num := .binary64 } 0 250) 8 ⟨0⟩ 1000 50 0 0
    (c.vel, c.std, c.amp.scale, c.sat) = (0, 0, 0, false) := by decide +kernel
/-- 95 section 2.6: the words 0x0001 and 0x0002 under `bit0`, `bit1`, `both`, `any`. -/
theorem test_burstMode :
    [BurstTest.bit0, .bit1, .both, .any].map (burstMode · 0x0001) = [true, false, false, true] ∧
    [BurstTest.bit0, .bit1, .both, .any].map (burstMode · 0x0002) = [false, true, false, true] := by decide
/-- R104, R163: the total of the largest cell count, 131079, is no 17-bit number, and RD.BUF refuses it. -/
theorem test_profileTotal_largest :
    (loaded { profileConfig with nVol := 0x7FFF }).profileTotal 0 = 131079 ∧
    gives (exec (.rdProf 0 0) { loaded { profileConfig with nVol := 0x7FFF } with link := true }) (fun t =>
      t.status == 0x83 && t.info0 == 0 && t.info1 == 131079 && t.segcnt == 0 && t.sent == []) = true := by decide +kernel
/-- R300: a negative sound speed flips the sign of `std`. -/
theorem test_profileCell_sign :
    (profileCell Config.default (velocityFactor Config.default (-1480) 250) 8 ⟨0⟩ 1000 50 0 0).std = -296 / 65535 := by
  decide +kernel
/-- R193: a fault in the second segment; `SEGCNT` says which. -/
theorem test_readSegment_count :
    (match readSegment 130 0 { linked [] with segcnt := 1, cur := 0x027D, rem := 5 } with
      | .ok _ _ => false
      | .error _ t => t.status == 0x41 && t.segcnt == 2 && t.sent == [0x04, 0x03, 0x02, 0x7D, 0x00, 0x05, 0x14, 0x3C]) =
      true := by decide +kernel

/-! The frames, with the vectors of 95 section 2.2. -/

theorem test_rdreq :
    gives (exec (.rdreq 0x0100 17) (linked [])) (fun t => t.busy && t.seq == .rx1 && t.segcnt == 1 &&
      t.sent == [0x04, 0x03, 0x01, 0x00, 0x00, 0x11, 0x84, 0x6F]) = true := by decide +kernel
theorem test_rdrsp :
    gives (exec (.rdrsp 0x04 [0x12, 0x34] 0x3379) { State.reset with
      link := true, busy := true, seq := .rx1, pend := some ⟨.read 1, 0⟩ })
      (fun t => t.status == 0 && t.rdcnt == 1 && t.rdb == [(0, 0x1234)] && !t.busy && t.pend == none) = true := by
  decide +kernel
theorem test_wrreq :
    gives (exec (.wrreq 0x0300 [1]) (linked [])) (fun t => t.busy &&
      t.sent == [0x04, 0x10, 0x03, 0x00, 0x00, 0x01, 0x02, 0x00, 0x01, 0x6B, 0xC0]) = true := by decide +kernel
theorem test_wrack :
    gives (exec (.wrack 0x04 0xFFFD 1 0x78A0) { State.reset with
      link := true, busy := true, seq := .rx1, pend := some ⟨.write, 0⟩ })
      (fun t => t.status == 0 && t.echoaddr == 0xFFFD && t.echocnt == 1 && !t.busy) = true := by decide +kernel
theorem test_wrerr :
    gives (exec (.wrerr 0x04 0x90 []) { State.reset with
      link := true, busy := true, seq := .rx1, pend := some ⟨.write, 0⟩ })
      (fun t => t.status == 0x46 && t.info0 == 0x90 && t.info1 == 0 && t.errlen == 0) = true := by decide +kernel

/-! The pseudo-operations: P2 step 4, P6 step 6 and P4 step 5 of 95 section 3. -/

theorem test_wrCfg :
    gives (exec (.wrCfg 0 0x0100)
        { linked [0x04, 0x10, 0x01, 0x00, 0x00, 0x11, 0x01, 0xAC] with hc := [⟨true, scenarioAWords⟩] })
      (fun t => t.status == 0 && t.echoaddr == 0x0100 && t.echocnt == 17 && t.sent.length == 43 &&
        t.sent.drop 41 == [0xF1, 0x64]) = true := by decide +kernel
theorem test_rdCfg :
    gives (exec (.rdCfg 1 0x0100)
        (linked ([0x04, 0x03, 0x22, 0x00, 0x23, 0x00, 0x40, 0x00, 0xFA, 0x00, 0x00, 0x00, 0x32, 0x00, 0x0E, 0x00, 0x07,
          0x02, 0xBE] ++ List.replicate 12 0x00 ++ [0x00, 0x08, 0x04, 0xD9, 0x00, 0x00, 0xC3, 0x8E])))
      (fun t => t.status == 0 && t.rdcnt == 17 && t.slotValid 1 && t.slotRegs 1 == scenarioAWords) = true := by
  decide +kernel
theorem test_rdProf :
    gives (exec (.rdProf 0 0x0300)
        { linked ([0x04, 0x03, 0x2E] ++ profileBlock ++ [0x52, 0x27]) with hc := [⟨true, profileConfig⟩] })
      (fun t => t.status == 0 && t.prv && t.prn == 3 && t.rdcnt == 23 && t.pr.sec == 315576000) = true := by
  decide +kernel

/-! ### Witnesses: values that meet every hypothesis of a statement -/

theorem arrives_one (bs : List Byte) : Arrives [⟨.data bs, false⟩] bs := ⟨by simp, by simp [streamBytes]⟩

theorem arrives_cut (k : Nat) (bs : List Byte) :
    Arrives [⟨.data (bs.take k), false⟩, ⟨.none, false⟩, ⟨.data (bs.drop k), false⟩] bs :=
  ⟨by simp, by simp [streamBytes]⟩

theorem test_witness_ResetEvent :
    (presented (linked []) [.reset]).inbox = .reset :: [] := rfl

theorem test_witness_StepRunsDecoded_command :
    (presented State.reset [.packet ⟨.command, [0x01]⟩]).inbox = .packet ⟨.command, [0x01]⟩ :: [] ∧
    (presented State.reset [.packet ⟨.command, [0x01]⟩]).busy = false ∧
    decode State.reset.cfg.slaveAddr ⟨.command, [0x01]⟩ = .ok .crcInit := by decide +kernel

theorem test_witness_StepRunsDecoded_device :
    Packet.fromDevice ⟨.writeReply, [0x04, 0x90, 0x00]⟩ = true ∧
    decode State.reset.cfg.slaveAddr ⟨.writeReply, [0x04, 0x90, 0x00]⟩ = .ok (.wrerr 0x04 0x90 []) := by decide +kernel

/-- A command that waits for an open transaction; the transaction alone; the idle engine. -/
theorem test_witness_StepRunsDecoded_engine :
    let q : Pending := ⟨.read 1, 0⟩
    let s : State := { linked [] with busy := true, seq := .rx1, pend := some q }
    ((presented s [.packet ⟨.command, [0x01]⟩]).inbox = .packet ⟨.command, [0x01]⟩ :: [] ∧
      (presented s [.packet ⟨.command, [0x01]⟩]).busy = true ∧ Packet.fromDevice ⟨.command, [0x01]⟩ = false ∧
      (presented s [.packet ⟨.command, [0x01]⟩]).pend = some q) ∧
    (s.inbox = [] ∧ s.pend = some q) ∧
    (State.reset.inbox = [] ∧ State.reset.busy = false ∧ State.reset.pend = none) := by decide

theorem test_witness_UnassignedOpRefused :
    ∀ op ∈ [(0x05 : Byte), 0x14, 0x1B, 0x22, 0x35, 0x46, 0x52, 0x61, 0xFF],
      let s := presented State.reset [.packet ⟨.command, op :: []⟩]
      s.inbox = .packet ⟨.command, op :: []⟩ :: [] ∧ s.busy = false ∧ s.seq = .idle ∧ s.pend = none ∧
      op.toNat ∉ [0x00, 0x01, 0x02, 0x03, 0x04, 0x10, 0x11, 0x12, 0x13, 0x1C, 0x1D, 0x1E, 0x1F, 0x20, 0x21, 0x30, 0x31,
        0x32, 0x33, 0x34, 0x40, 0x41, 0x42, 0x43, 0x44, 0x45, 0x50, 0x51, 0x60] := by decide +kernel

/-- At the largest counts a frame admits. -/
theorem test_witness_DecodeEncodeAgree :
    (Instr.rdreq 65411 125).WellFormed ∧ (Instr.wrreq 65413 (List.replicate 123 7)).WellFormed ∧
    (Instr.rdrsp 0 (List.replicate 255 1) 0).WellFormed ∧ (Instr.wrerr 0 0x03 (List.replicate 255 1)).WellFormed ∧
    (Instr.cfgFromUser 1 vectorK2 1480 (some ⟨60, 0⟩)).WellFormed := by decide +kernel

/-- A state in the middle of a transaction meets the invariant, and has a step. -/
theorem test_witness_InvStep :
    let s : State := { linked [0x04] with busy := true, seq := .rx1, pend := some ⟨.read 1, 0⟩, rdb := [(3, 1)] }
    s.Inv ∧ ∃ t, step s = .next t := ⟨⟨by decide, by decide, by decide, Or.inl rfl⟩, _, rfl⟩

theorem test_witness_StickyOnlyGains :
    (∀ rest, (presented State.reset [.packet ⟨.command, [0x05]⟩]).inbox ≠ .reset :: rest) ∧
    ∃ t, step (presented State.reset [.packet ⟨.command, [0x05]⟩]) = .next t := ⟨by simp [presented], _, rfl⟩

theorem test_witness_ParametersFixed : ∃ t, step (presented State.reset [.reset]) = .next t := ⟨_, rfl⟩

theorem test_witness_LinkWriters :
    Instr.rdW 0 1 none ≠ .linkOpen ∧ Instr.rdW 0 1 none ≠ .linkClose ∧
    ∃ t, exec (.rdW 0 1 none) (linked []) = .next t := ⟨nofun, nofun, _, rfl⟩

theorem test_witness_CrcRegisterWriters :
    Instr.crcCompute [1] ≠ .crcInit ∧ (∀ b, Instr.crcCompute [1] ≠ .crcUpdate b) ∧
    ∃ t, exec (.crcCompute [1]) State.reset = .next t := ⟨nofun, nofun, _, rfl⟩

theorem test_witness_ConfigWriters :
    ∃ t, exec (.cfgFromRegs 0 scenarioAWords.toRegs) State.reset = .next t ∧ t.hc ≠ State.reset.hc :=
  ⟨_, rfl, by decide +kernel⟩

theorem test_witness_ProfileWriters :
    ∃ t, exec (.profDec profileBlock 0) (loaded profileConfig) = .next t ∧ t.prv = true := ⟨_, rfl, by decide +kernel⟩

theorem test_witness_CrcStreaming :
    let is : List Instr := [.crcUpdate 0x04, .crcCompute [0x31], .crcUpdate 0x03]
    Instr.crcInit ∉ is ∧ ∃ t, execAll (.crcInit :: is) State.reset = .next t := ⟨by decide, _, rfl⟩

theorem test_witness_CrcCheckResult : ([] : List Byte).length < 2 ∧ ([0xFF] : List Byte).length < 2 := by decide

theorem test_witness_SealPassesFlipFails :
    0 < ([0x31] : List Byte).length ∧ 2 < ([0x31] : List Byte).length + 2 ∧ 0 < ([] : List Byte).length + 2 ∧
    7 < 8 := by
  decide

/-- Every clause at a boundary of its range. -/
theorem test_witness_TransportRefusals :
    (¬(1 ≤ (0 : Word).toNat ∧ (0 : Word).toNat ≤ 125) ∧ ¬(1 ≤ (126 : Word).toNat ∧ (126 : Word).toNat ≤ 125)) ∧
    (1 ≤ (125 : Word).toNat ∧ (125 : Word).toNat ≤ 125 ∧ 65536 < (65412 : Word).toNat + (125 : Word).toNat) ∧
    ((65411 : Word).toNat + (125 : Word).toNat ≤ 65536 ∧ State.reset.link = false) ∧
    65536 < (0xFF00 : Word).toNat + (257 : BitVec 17).toNat ∧
    ((0xFF00 : Word).toNat + (256 : BitVec 17).toNat ≤ 65536 ∧ (0 : Word).toNat + (0 : BitVec 17).toNat ≤ 65536) ∧
    (¬(1 ≤ ([] : List Word).length ∧ ([] : List Word).length ≤ 123) ∧
      ¬(1 ≤ (List.replicate 124 (0 : Word)).length ∧ (List.replicate 124 (0 : Word)).length ≤ 123)) ∧
    (1 ≤ ([1, 2] : List Word).length ∧ ([1, 2] : List Word).length ≤ 123 ∧
      65536 < (0xFFFF : Word).toNat + ([1, 2] : List Word).length) ∧
    (1 ≤ (List.replicate 123 (0 : Word)).length ∧ (List.replicate 123 (0 : Word)).length ≤ 123 ∧
      (65413 : Word).toNat + (List.replicate 123 (0 : Word)).length ≤ 65536) := by decide +kernel

/-- A frame cut after three bytes, and one of which nothing is taken. -/
theorem test_witness_TransmitFault :
    ∀ n ∈ [0, 3], let s : State := { State.reset with link := true, env := ⟨[.ioError n], [], []⟩ }
      s.link = true ∧ s.txAnswer = .ioError n ∧ 1 ≤ (1 : Word).toNat ∧ (1 : Word).toNat ≤ 125 ∧
      (0xFFFF : Word).toNat + (1 : Word).toNat ≤ 65536 ∧ 1 ≤ ([7] : List Word).length ∧ ([7] : List Word).length ≤ 123 ∧
      (0xFFFF : Word).toNat + ([7] : List Word).length ≤ 65536 := by decide +kernel

theorem test_witness_RdWDelivers :
    (linked (readReply 4 [0x1234])).Ready 0xFFFF (1 : Word).toNat 125 ∧
    (linked (readReply 4 [0x1234])).AcceptsSlave 4 ∧ [(0x1234 : Word)].length = (1 : Word).toNat ∧
    (linked (readReply 4 [0x1234])).env.rx = [⟨.data (readReply 4 [0x1234]), false⟩] ++ [⟨.none, true⟩] ∧
    Arrives [⟨.data (readReply 4 [0x1234]), false⟩] (readReply 4 [0x1234]) :=
  ⟨by decide +kernel, Or.inl rfl, rfl, rfl, arrives_one _⟩

/-- The largest count, the response cut in two with a wait between. -/
theorem test_witness_RdWDelivers_cut :
    let w := List.replicate 125 (7 : Word)
    let bs := readReply 9 w
    let es : List RxStep := [⟨.data (bs.take 1), false⟩, ⟨.none, false⟩, ⟨.data (bs.drop 1), false⟩]
    (linked []).Ready 65411 (125 : Word).toNat 125 ∧ (linked []).AcceptsSlave 9 ∧ w.length = (125 : Word).toNat ∧
    Arrives es (readReply 9 w) := ⟨by decide +kernel, Or.inl rfl, rfl, arrives_cut 1 _⟩

/-- The four clauses: a foreign slave byte under `CHECK_SLAVE`, function 0x83, a wrong CRC, a byte count of 4 for one
word; and the bytes that stay in the stream. -/
theorem test_witness_ReadResponseFaults :
    (linked []).Ready 0 (1 : Word).toNat 125 ∧ ([0x12, 0x34] : List Byte).length = (0x02 : Byte).toNat ∧
    (Arrives [⟨.data [0x04, 0x03, 0x02, 0x12, 0x34, 0x79, 0x33, 0xEE], false⟩]
      ([0x04, 0x03, 0x02] ++ [0x12, 0x34] ++ [0x79, 0x33] ++ [0xEE])) ∧
    ¬({ State.reset with cfg := { Config.default with checkSlave := true } } : State).AcceptsSlave 0x01 ∧
    (State.reset.AcceptsSlave 0x01 ∧ (0x83 : Byte) ≠ 0x03) ∧
    ¬((0x79 : Byte) = lo8 (crc16 [0x04, 0x03, 0x02, 0x12, 0x34]) ∧
      (0x34 : Byte) = hi8 (crc16 [0x04, 0x03, 0x02, 0x12, 0x34])) ∧
    ((0xD4 : Byte) = lo8 (crc16 [0x04, 0x03, 0x04, 0x12, 0x34, 0x56, 0x78]) ∧
      (0x07 : Byte) = hi8 (crc16 [0x04, 0x03, 0x04, 0x12, 0x34, 0x56, 0x78]) ∧
      (0x04 : Byte).toNat ≠ 2 * (1 : Word).toNat) := by decide +kernel

/-- Silence and a closed stream, with no byte, one byte short of the head, nothing after it, and one byte short of the
longest response. -/
theorem test_witness_ReadResponseFaults_break :
    let w : State := linked []
    (w.Ready 0 (1 : Word).toNat 125 ∧ w.AcceptsSlave 4 ∧ w.env.rx = [⟨.data [], false⟩, ⟨.none, true⟩] ++ []) ∧
    (∀ b ∈ [[], [4, 3], [4, 3, 2], [4, 3, 0xFF] ++ List.replicate 256 7],
      BreaksOff [⟨.data b, false⟩, ⟨.none, true⟩] b false ∧ BreaksOff [⟨.data b, false⟩, ⟨.closed, false⟩] b true) ∧
    (([] : List Byte).length < 3 ∧ ([4, 3] : List Byte).length < 3) ∧
    (([] : List Byte).length < (2 : Byte).toNat + 2 ∧
      (List.replicate 256 (7 : Byte)).length < (0xFF : Byte).toNat + 2) :=
  ⟨by decide +kernel, fun b _ => ⟨⟨[⟨.data b, false⟩], _, rfl, arrives_one b, rfl, rfl⟩,
    ⟨[⟨.data b, false⟩], _, rfl, arrives_one b, rfl⟩⟩, by decide, by decide +kernel⟩

theorem test_witness_WriteAcknowledged :
    (linked []).Ready 0xFFFD ([2] : List Word).length 123 ∧
    (linked []).Ready 65413 (List.replicate 123 (0 : Word)).length 123 ∧ (linked []).AcceptsSlave 4 ∧
    Arrives [⟨.data (ackReply 4 0xFFFD 1), false⟩] (ackReply 4 0xFFFD 1) :=
  ⟨by decide +kernel, by decide +kernel, Or.inl rfl, arrives_one _⟩

/-- The three clauses, the failure path with an empty payload and with 255 bytes. -/
theorem test_witness_WriteResponseFaults :
    (linked []).Ready 0xFFFD ([2] : List Word).length 123 ∧ ([] : List Byte).length ≤ 255 ∧
    (List.replicate 255 (1 : Byte)).length ≤ 255 ∧ (0x90 : Byte) ≠ 0x10 ∧
    Arrives [⟨.data [0x04, 0x90, 0x00], false⟩] ([0x04, 0x90, BitVec.ofNat 8 0] ++ []) ∧
    ¬((0xA0 : Byte) = lo8 (crc16 ([0x04, 0x10] ++ be16 0xFFFD ++ be16 1)) ∧
      (0x79 : Byte) = hi8 (crc16 ([0x04, 0x10] ++ be16 0xFFFD ++ be16 1))) ∧
    ¬({ State.reset with cfg := { Config.default with checkSlave := true } } : State).AcceptsSlave 0x01 := by
  decide +kernel

/-- Each place where a write's response can break off, at both ends of its range. -/
theorem test_witness_WriteResponseFaults_break :
    let w : State := linked []
    (w.Ready 0xFFFD ([2] : List Word).length 123 ∧ w.AcceptsSlave 4 ∧
      w.env.rx = [⟨.data [], false⟩, ⟨.none, true⟩] ++ []) ∧
    (∀ b : List Byte,
      BreaksOff [⟨.data b, false⟩, ⟨.none, true⟩] b false ∧ BreaksOff [⟨.data b, false⟩, ⟨.closed, false⟩] b true) ∧
    (([] : List Byte).length < 2 ∧ ([4] : List Byte).length < 2) ∧
    (([] : List Byte).length < 6 ∧ ([1, 2, 3, 4, 5] : List Byte).length < 6) ∧ (0x90 : Byte) ≠ 0x10 ∧
    (([] : List Byte).length < (1 : Byte).toNat ∧ (List.replicate 254 (7 : Byte)).length < (0xFF : Byte).toNat) :=
  ⟨by decide +kernel, fun b => ⟨⟨[⟨.data b, false⟩], _, rfl, arrives_one b, rfl, rfl⟩,
    ⟨[⟨.data b, false⟩], _, rfl, arrives_one b, rfl⟩⟩, by decide, by decide, by decide, by decide +kernel⟩

/-- The smallest total, the largest of one segment, and one word more at the end of the address space. -/
theorem test_witness_RdBufDelivers :
    ∀ p ∈ [((0x0200 : Word), (0 : BitVec 17)), (0x0200, 125), (65410, 126)],
      let bytes := segmentReplies 4 (fun a => BitVec.ofNat 16 a) p.1.toNat p.2.toNat
      p.1.toNat + p.2.toNat ≤ 65536 ∧ (linked bytes).link = true ∧ (linked bytes).AcceptsSlave 4 ∧
      (∃ txs, (linked bytes).env.tx = List.replicate ((p.2.toNat + 124) / 125) .ok ++ txs) ∧
      (linked bytes).env.rx = [⟨.data bytes, false⟩] ++ [⟨.none, true⟩] ∧
      Arrives [⟨.data bytes, false⟩] bytes ∧ cellsWf (linked bytes).rdb = true := by
  intro p hp
  simp only [List.mem_cons, List.not_mem_nil, or_false] at hp
  refine ⟨?_, rfl, Or.inl rfl, ?_, rfl, arrives_one _, rfl⟩
  · rcases hp with rfl | rfl | rfl <;> simp
  · rcases hp with rfl | rfl | rfl
    · exact ⟨[.ok, .ok, .ok], rfl⟩
    · exact ⟨[.ok, .ok], rfl⟩
    · exact ⟨[.ok], rfl⟩

set_option maxRecDepth 100000 in
/-- A fault in the first and in the second of two segments: silence instead of a reply. -/
theorem test_witness_RdBufSegmentFault :
    ∀ j ∈ [0, 1],
      let bytes := segmentReplies 4 (fun a => BitVec.ofNat 16 a) 0x0200 (125 * j)
      let s : State := linked bytes
      let txs : List TxAnswer := List.replicate (3 - j) .ok
      let start : Word := BitVec.ofNat 16 (0x0200 + 125 * j)
      let count : Word := BitVec.ofNat 16 (min (130 - 125 * j) 125)
      (0x0200 : Word).toNat + (130 : BitVec 17).toNat ≤ 65536 ∧ s.link = true ∧ s.AcceptsSlave 4 ∧
      125 * j < (130 : BitVec 17).toNat ∧ s.env.tx = List.replicate j .ok ++ txs ∧
      s.env.rx = [⟨.data bytes, false⟩] ++ [⟨.none, true⟩] ∧ Arrives [⟨.data bytes, false⟩] bytes ∧
      gives (exec (.rdW start count none) { s with env := { s.env with tx := txs, rx := [] ++ [⟨.none, true⟩] } })
        (fun u => u.status != 0) = true := by
  intro j hj
  refine ⟨?_, rfl, Or.inl rfl, ?_, ?_, rfl, arrives_one _, ?_⟩ <;> revert j <;> decide +kernel

theorem test_witness_ReadOutcomes :
    (∃ t, exec (.rdW 0 1 none) (linked [0x04, 0x03, 0x02, 0x12, 0x34, 0x79, 0x33]) = .next t ∧ t.status = 0) ∧
    ∃ t, exec (.rdBuf 0 1 none) (linked []) = .next t ∧ t.status ≠ 0 :=
  ⟨⟨_, rfl, by decide +kernel⟩, _, rfl, by decide +kernel⟩

theorem test_witness_WriteOutcomes :
    (∃ t, exec (.wrW 0xFFFD [2] none) (linked [0x04, 0x10, 0xFF, 0xFD, 0x00, 0x01, 0xA0, 0x78]) = .next t ∧
      t.status = 0) ∧
    ∃ t, exec (.wrBuf 0 [] none) (linked []) = .next t ∧ t.status ≠ 0 :=
  ⟨⟨_, rfl, by decide +kernel⟩, _, rfl, by decide +kernel⟩

theorem test_witness_SentOnce :
    (∃ t, exec (.rdW 0 1 none) (linked []) = .next t) ∧ (∃ t, exec (.rdBuf 0 130 none) (linked []) = .next t) ∧
    ∃ t, exec (.wrBuf 0 [7] none) (linked []) = .next t := ⟨⟨_, rfl⟩, ⟨_, rfl⟩, _, rfl⟩

/-- Enough bytes, too few, none. -/
theorem test_witness_RxConsumes :
    (linked [1, 2, 3]).rxFree 1 = false ∧ (linked [1, 2, 3]).rxFree 4 = false ∧ (linked []).rxFree 1 = false := by
  decide +kernel

theorem test_witness_RegisterAccess :
    0x10 < (0x11 : Byte).toNat ∧ 0x10 < (0xFF : Byte).toNat ∧ (0x02 : Byte) ≠ 0x03 ∧ (0x04 : Byte) ≠ 0x03 := by decide

/-- The first and the last register number. -/
theorem test_witness_RegisterAccess_read :
    ∀ p ∈ [((0x00 : Byte), (4 : Rat)), (0x10, 36000000)],
      let s := State.reset
      p ∈ [((0x00 : Byte), (s.cfg.slaveAddr.toNat : Rat)), (0x01, 125), (0x02, 123), (0x03, s.tmo),
        (0x04, if s.link then 1 else 0), (0x05, if s.busy then 1 else 0), (0x06, (s.status.toNat : Rat)),
        (0x07, (s.fsticky.toNat : Rat)), (0x08, (s.info0.toNat : Rat)), (0x09, (s.info1.toNat : Rat)),
        (0x0A, (s.errfunc.toNat : Rat)), (0x0B, (s.errlen.toNat : Rat)), (0x0C, (s.echoaddr.toNat : Rat)),
        (0x0D, (s.echocnt.toNat : Rat)), (0x0E, (s.rdcnt.toNat : Rat)), (0x0F, (s.segcnt.toNat : Rat)),
        (0x10, s.cfg.fSys)] := by decide +kernel

theorem test_witness_LinkOperations :
    ({ State.reset with env := ⟨[], [], [⟨true, 2⟩]⟩ } : State).openAnswer.ok = true ∧
    ({ State.reset with env := ⟨[], [], [⟨false, 0⟩]⟩ } : State).openAnswer.ok = false := ⟨rfl, rfl⟩

theorem test_witness_RequestMoves :
    (linked []).Ready 0xFFFF (1 : Word).toNat 125 ∧ (linked []).Ready 65411 (125 : Word).toNat 125 ∧
    (linked []).Ready 0xFFFF ([1] : List Word).length 123 ∧
    (linked []).Ready 65413 (List.replicate 123 (0 : Word)).length 123 := by decide +kernel

theorem test_witness_ResponseMoves :
    State.reset.pend = none ∧ State.reset.AcceptsSlave 4 ∧ State.reset.rxacc = [] ∧ Arrives State.reset.env.rx [] ∧
    ([0x1234] : List Word).length = (1 : Word).toNat ∧ ([] : List Word).length = (0 : Word).toNat ∧
    readResponse 4 (wordsToBytes [0x1234]) 0x3379 = readReply 4 [0x1234] ∧
    writeAck 4 0xFFFD 1 0x78A0 = ackReply 4 0xFFFD 1 ∧ (0x90 : Byte) ≠ 0x10 ∧ ([] : List Byte).length ≤ 255 ∧
    ({ State.reset with pend := some ⟨.read 1, 0⟩ } : State).pend = some ⟨.read 1, 0⟩ := by decide +kernel

theorem test_witness_PseudoOperationsExpand :
    let s : State := { linked [] with hc := [⟨true, profileConfig⟩] }
    (∃ t, exec (.cfgToRegs 0) s = .next t) ∧ (∃ t, exec (.rdW 0x0100 17 none) s = .next t) ∧ 0 < s.nSlots ∧
    s.nSlots ≤ 1 ∧ (0 < State.reset.nSlots ∧ State.reset.slotValid 0 = false) ∧ s.slotValid 0 = true ∧ ((23 : BitVec 17).toNat : Int) = 11 + 4 * sRead (s.slotRegs 0).nVol ∧
    ∃ t, exec (.rdBuf 0x0300 23 none) { s with draws := s.draws + 1 } = .next t :=
  ⟨⟨_, rfl⟩, ⟨_, rfl⟩, by decide, by decide, by decide, rfl, by decide, _, rfl⟩

/-- One word past the last address, and the largest block. -/
theorem test_witness_PseudoOperationsExpand_range :
    ∀ p ∈ [((65514 : Word), (3 : Word), 23), (0, 0x7FFF, 131079)],
      let s := loaded { profileConfig with nVol := p.2.1 }
      0 < s.nSlots ∧ s.slotValid 0 = true ∧ ((p.2.2 : Nat) : Int) = 11 + 4 * sRead (s.slotRegs 0).nVol ∧
      65536 < p.1.toNat + p.2.2 := by decide +kernel

theorem test_witness_ConfigTransfers :
    let s : State := { linked [] with hc := [⟨true, profileConfig⟩] }
    0 < s.nSlots ∧ s.slotValid 0 = true ∧ s.Ready 0x0100 17 123 ∧ s.Ready 65519 17 125 ∧ s.AcceptsSlave 4 ∧
    Arrives [⟨.data (ackReply 4 0x0100 17), false⟩] (ackReply 4 0x0100 17) ∧
    Arrives [⟨.data (readReply 4 profileConfig.toRegs), false⟩] (readReply 4 profileConfig.toRegs) ∧
    cellsWf s.rdb = true :=
  ⟨by decide, rfl, by decide +kernel, by decide +kernel, Or.inl rfl, arrives_one _, arrives_one _, rfl⟩

/-- A block of 3 cells, and a block of none at the end of the address space. -/
theorem test_witness_ProfileTransfer :
    ∀ p ∈ [((0x0300 : Word), 3), (65525, 0)],
      let bytes := segmentReplies 4 (fun _ => 1) p.1.toNat (11 + 4 * p.2)
      let s : State := { linked bytes with hc := [⟨true, { profileConfig with nVol := BitVec.ofNat 16 p.2 }⟩] }
      0 < s.nSlots ∧ s.slotValid 0 = true ∧ sRead (s.slotRegs 0).nVol = p.2 ∧ sRead (s.slotRegs 0).cPrf ≠ 0 ∧
      0 < sRead (s.slotRegs 0).nAvg ∧ p.1.toNat + (11 + 4 * p.2) ≤ 65536 ∧ s.link = true ∧ s.AcceptsSlave 4 ∧
      s.env.tx = List.replicate ((11 + 4 * p.2 + 124) / 125) .ok ++ [.ok, .ok] ∧
      s.env.rx = [⟨.data bytes, false⟩] ++ [⟨.none, true⟩] ∧ Arrives [⟨.data bytes, false⟩] bytes ∧
      cellsWf s.rdb = true := by
  intro p hp
  refine ⟨Nat.one_pos, rfl, ?_, ?_, ?_, ?_, rfl, Or.inl rfl, ?_, rfl, arrives_one _, rfl⟩ <;>
    revert p <;> decide +kernel

theorem test_witness_RoundToNearest :
    (5 / 2 : Rat) - (((5 / 2 : Rat).floor : Int) : Rat) = 1 / 2 ∧
    (-5 / 2 : Rat) - (((-5 / 2 : Rat).floor : Int) : Rat) = 1 / 2 ∧ (0 : Rat) ≤ 5 / 2 ∧ (-5 / 2 : Rat) < 0 := by
  decide +kernel

/-- The ends of both ranges and their neighbours. -/
theorem test_witness_CastProperties :
    ((-32768 : Int) ≤ -32768 ∧ (-32768 : Int) ≤ 32767 ∧ (32767 : Int) < 32768 ∧ (-32769 : Int) < -32768) ∧
    ((0 : Int) ≤ 0 ∧ (0 : Int) ≤ 65535 ∧ (65535 : Int) < 65536 ∧ (-1 : Int) < 0) ∧ (-1 / 2 : Rat) ≤ 1 / 2 := by
  decide +kernel

theorem test_witness_GainScalars : State.reset.cfg.num = .exact ∧ (1 / 100 : Rat) ≠ 0 := ⟨rfl, by decide +kernel⟩

/-- The two ends of the applied range, a code of one decimal, a slope inside the clamp. -/
theorem test_witness_GainRoundTrips :
    Config.default.num = .exact ∧ 0 < Config.default.codeDbRatio ∧ (50 : Rat) ≤ 50 ∧ (1241 : Rat) ≤ 1241 ∧
    (50 : Rat) ≤ 1241 ∧ (501 / 10 : Rat) = ((501 : Int) : Rat) / 10 ∧ (1 / 100 : Rat) ≠ 0 ∧
    -4096 < s2c Config.default 50 (1 / 100) ∧ s2c Config.default 50 (1 / 100) < 4095 := by decide +kernel

/-- The same codes under `binary64`, at the ends of the ranges of the parameters. -/
theorem test_witness_GainRoundTrips_binary64 :
    ∀ p ∈ [((1172 / 100 : Rat), (4029 / 100000 : Rat)), (-1000, 1 / 1000), (1000, 1000)],
      let cfg : Config := { Config.default with num := .binary64, chainDb := p.1, codeDbRatio := p.2 }
      cfg.num = .binary64 ∧ -1000 ≤ cfg.chainDb ∧ cfg.chainDb ≤ 1000 ∧ 1 / 1000 ≤ cfg.codeDbRatio ∧
      cfg.codeDbRatio ≤ 1000 ∧ (50 : Rat) ≤ 50 ∧ (1241 : Rat) ≤ 1241 ∧ (501 / 10 : Rat) = ((501 : Int) : Rat) / 10 := by
  decide +kernel

theorem test_witness_GainTable : State.reset.cfg.num = .exact ∧ 0 < (1 : BitVec 15).toNat := ⟨rfl, by decide⟩

theorem test_witness_GainTableBounded :
    Config.default.num = .exact ∧ 0 < Config.default.codeDbRatio ∧ (∀ x y : Rat, x ≤ y → id x ≤ id y) ∧
    ∃ g, (gtab Config.default 3 702 (-160) 1241 0)[2]? = some g :=
  ⟨rfl, by decide +kernel, fun _ _ h => h, _, rfl⟩

/-- The spec's own `pow10_20`, into the reals, is monotone (R12). -/
theorem test_witness_GainTableBounded_real :
    ∀ x y : Rat, x ≤ y → (10 : Real) ^ ((x : Real) / 20) ≤ (10 : Real) ^ ((y : Real) / 20) := fun x y h => by
  gcongr
  norm_num

theorem test_witness_FromUserResult :
    let s := State.reset
    s.cfg.num = .exact ∧ 1 < s.nSlots ∧ vectorK2.f0 ≠ 0 ∧ vectorK2.prf ≠ 0 ∧ (1480 : Rat) ≠ 0 ∧
    castS16 s.cfg (s.cfg.fSys / vectorK2.f0 - 1) + 1 ≠ 0 := by decide +kernel

/-- The slot past the last; each zero operand; the divider that rounds to -1. -/
theorem test_witness_FromUserFaults :
    let s := State.reset
    s.nSlots ≤ 2 ∧ 1 < s.nSlots ∧ ({ scenarioA with f0 := 0 } : AcousticConfig).f0 = 0 ∧
    ({ scenarioA with prf := 0 } : AcousticConfig).prf = 0 ∧ (100000000 : Rat) ≠ 0 ∧ scenarioA.prf ≠ 0 ∧
    castS16 s.cfg (s.cfg.fSys / 100000000 - 1) + 1 = 0 := by decide +kernel

theorem test_witness_RegisterLists :
    1 < (loaded scenarioAWords).nSlots ∧ (loaded scenarioAWords).nSlots ≤ 2 ∧
    (List.replicate 16 (0 : Word)).length ≠ 17 ∧
    (List.replicate 18 (0 : Word)).length ≠ 17 ∧ (List.replicate 17 (0xFFFF : Word)).length = 17 ∧
    (loaded scenarioAWords).slotValid 0 = true ∧ (loaded scenarioAWords).slotValid 1 = false := by decide

/-- A slot that converts; each divisor zero; a slot not loaded; the slot past the last. -/
theorem test_witness_ToUserResult :
    let h := (loaded scenarioAWords).slotRegs 0
    ¬(sRead h.divF0 + 1 = 0 ∨ sRead h.cPrf = 0 ∨ (1480 : Rat) = 0 ∨ sRead h.cDvol = 0) ∧
    sRead 0xFFFF + 1 = 0 ∧ sRead 0 = 0 ∧ (loaded scenarioAWords).slotValid 0 = true ∧
    (loaded scenarioAWords).slotValid 1 = false ∧ 1 < (loaded scenarioAWords).nSlots ∧
    (loaded scenarioAWords).nSlots ≤ 2 ∧ (loaded scenarioAWords).cfg.num = .exact := by decide +kernel

theorem test_witness_CountsAndModesReturn :
    ∃ t u, exec (.cfgFromUser 1 vectorK2 1480 none) State.reset = .next t ∧ t.status = 0 ∧
      exec (.cfgToUser 1 1500) t = .next u ∧ u.status = 0 ∧ -32768 ≤ vectorK2.nEch ∧ vectorK2.nEch ≤ 32767 :=
  ⟨_, _, rfl, by decide +kernel, rfl, by decide +kernel, by decide, by decide⟩

/-- Every clause of CFG.BLOCKDUR and CFG.EQ: slots 0 and 2 loaded, slot 1 not, slot 3 past the last. -/
theorem test_witness_ConfigQueries :
    let s : State := { State.reset with
      hc := [⟨true, scenarioAWords⟩, ⟨false, HwConfig.unloaded⟩, ⟨true, scenarioAWords⟩] }
    s.cfg.num = .exact ∧ 0 < s.nSlots ∧ 1 < s.nSlots ∧ 2 < s.nSlots ∧ s.nSlots ≤ 3 ∧ s.slotValid 0 = true ∧
    s.slotValid 1 = false ∧ s.slotValid 2 = true := by decide

theorem test_witness_TimestampEncode :
    ((-1073741824 : Int) ≤ -1073741824 ∧ (1073741823 : Int) ≤ 1073741823 ∧ (0 : Int) ≤ 0 ∧ (999 : Int) ≤ 999) ∧
    ((-1073741825 : Int) < -1073741824 ∧ (1073741823 : Int) < 1073741824) ∧ ((-1 : Int) < 0 ∧ (999 : Int) < 1000) := by
  decide

theorem test_witness_TimestampRoundTrip :
    ∃ t, exec (.tsEnc (-1073741824) 999) State.reset = .next t := ⟨_, rfl⟩

theorem test_witness_ProfileDecode :
    let s := loaded profileConfig
    let h := s.slotRegs 0
    s.cfg.num = .exact ∧ 0 < s.nSlots ∧ s.slotValid 0 = true ∧ sRead h.nVol = (3 : Nat) ∧
    profileBlock.length = 2 * (11 + 4 * 3) ∧ sRead h.cPrf ≠ 0 ∧ 0 < sRead h.nAvg := by decide +kernel

/-- The clause of the zeros, under `binary64`: a block of zeros, of one cell. -/
theorem test_witness_ProfileDecode_zeros :
    let s : State := { loaded { profileConfig with nVol := 1 } with cfg := { Config.default with num := .binary64 } }
    let h := s.slotRegs 0
    let pb : List Byte := List.replicate 30 0
    0 < s.nSlots ∧ s.slotValid 0 = true ∧ sRead h.nVol = (1 : Nat) ∧ pb.length = 2 * (11 + 4 * 1) ∧ sRead h.cPrf ≠ 0 ∧
    0 < sRead h.nAvg ∧ (ofOctets (byteAt pb 26) (byteAt pb 27)).toInt = 0 ∧
    (ofOctets (byteAt pb 12) (byteAt pb 13)).toInt = 0 := by decide +kernel

/-- Every clause: the slot past the last, a slot not loaded, a negative cell count, a length one off, a zero count of
averages and a zero divider. -/
theorem test_witness_ProfileFaults :
    let s := loaded profileConfig
    s.nSlots ≤ 2 ∧ 1 < s.nSlots ∧ s.slotValid 1 = false ∧ s.slotValid 0 = true ∧ sRead 0xFFFD < 0 ∧
    (((profileBlock.take 45).length : Int) ≠ 2 * (11 + 4 * sRead profileConfig.nVol)) ∧ 0 ≤ sRead profileConfig.nVol ∧
    (profileBlock.length : Int) = 2 * (11 + 4 * sRead profileConfig.nVol) ∧ sRead 0 = 0 ∧ sRead 0 ≤ 0 := by
  decide +kernel

end Sys2Proof.Tests
end

/-! Rounding to the nearest integer (00_scope.md R16): `rni` by its branches, then how far it is from its argument and
where a tie goes. -/

namespace Sys2Proof.Machine

/-! ### The branches of `rni` -/

theorem rni_of_lt_half (t : RoundTie) {x : Rat} (h : x - x.floor < 1 / 2) : rni t x = x.floor := if_pos h

theorem rni_of_half_lt (t : RoundTie) {x : Rat} (h : 1 / 2 < x - x.floor) : rni t x = x.floor + 1 := by
  simp only [rni, if_neg h.not_gt, if_pos h]

theorem rni_even_of_tie {x : Rat} (h : x - x.floor = 1 / 2) :
    rni .even x = if x.floor % 2 = 0 then x.floor else x.floor + 1 := by
  simp only [rni, h, lt_irrefl, if_false]

theorem rni_away_of_tie {x : Rat} (h : x - x.floor = 1 / 2) :
    rni .away x = if 0 ≤ x then x.floor + 1 else x.floor := by
  simp only [rni, h, lt_irrefl, if_false]

/-- All that `rni` can be, under either tie rule: the floor, from the lower half of the unit interval, or the next
integer, from the upper half. The midpoint is in both. -/
theorem rni_eq_floor_or (t : RoundTie) (x : Rat) :
    (rni t x = x.floor ∧ x - x.floor ≤ 1 / 2) ∨ (rni t x = x.floor + 1 ∧ 1 / 2 ≤ x - x.floor) := by
  rcases lt_trichotomy (x - x.floor) (1 / 2) with below | tie | above
  · exact .inl ⟨rni_of_lt_half t below, below.le⟩
  · cases t with
    | even =>
      rw [rni_even_of_tie tie]
      split
      · exact .inl ⟨rfl, tie.le⟩
      · exact .inr ⟨rfl, tie.ge⟩
    | away =>
      rw [rni_away_of_tie tie]
      split
      · exact .inr ⟨rfl, tie.ge⟩
      · exact .inl ⟨rfl, tie.le⟩
  · exact .inr ⟨rni_of_half_lt t above, above.le⟩

/-! ### Distance and ties -/

theorem rni_within_half (t : RoundTie) (x : Rat) : (rni t x : Rat) - x ≤ 1 / 2 ∧ x - (rni t x : Rat) ≤ 1 / 2 := by
  have floor_le : (x.floor : Rat) ≤ x := Rat.floor_le x
  have lt_floor : x - 1 < (x.floor : Rat) := Rat.lt_floor
  obtain ⟨eq, lower⟩ | ⟨eq, upper⟩ := rni_eq_floor_or t x
  · rw [eq]
    constructor <;> linarith
  · rw [eq, Int.cast_add, Int.cast_one]
    constructor <;> linarith

theorem rni_even_emod_two_of_tie {x : Rat} (h : x - x.floor = 1 / 2) : rni .even x % 2 = 0 := by
  rw [rni_even_of_tie h]
  split <;> omega

theorem rni_away_of_tie_of_nonneg {x : Rat} (h : x - x.floor = 1 / 2) (hx : 0 ≤ x) :
    (rni .away x : Rat) = x + 1 / 2 := by
  rw [rni_away_of_tie h, if_pos hx, Int.cast_add, Int.cast_one]
  linarith

theorem rni_away_of_tie_of_neg {x : Rat} (h : x - x.floor = 1 / 2) (hx : x < 0) :
    (rni .away x : Rat) = x - 1 / 2 := by
  rw [rni_away_of_tie h, if_neg hx.not_ge]
  linarith

/-- Settles O43: `rni` by its distance from the argument, and the three cases of a tie. -/
theorem roundToNearest : Obligations.RoundToNearest := fun x =>
  ⟨fun t => rni_within_half t x, fun tie =>
    ⟨rni_even_emod_two_of_tie tie, rni_away_of_tie_of_nonneg tie, rni_away_of_tie_of_neg tie⟩⟩

end Sys2Proof.Machine

/-! Who writes the registers whose writers the spec lists, and the invariant (10_state.md R22 to R34).

`State.Follows W s t` says once what an operation may do: it keeps the parameters and every guarded register outside
`W`, only adds bits to `FSTICKY`, and keeps the data part of the invariant. Each operation of the engine is shown to
end in it; `exec_performs` collects the instructions, and `step_cases` the steps. -/

namespace Sys2Proof.Machine

/-! ### Engine operations: sequencing of unlike relations -/

section

variable {α β : Type} {P Q P₁ P₂ Q₁ Q₂ : State → State → Prop}

theorem ends_mono {op : Engine α} (h : Ends P₁ Q₁ op) (hp : ∀ s t, P₁ s t → P s t) (hq : ∀ s t, Q₁ s t → Q s t) :
    Ends P Q op :=
  fun s => ⟨fun a t e => hp s t ((h s).1 a t e), fun a t e => hq s t ((h s).2 a t e)⟩

/-- Every normal result of the operation satisfies `V`. -/
abbrev Yields (V : α → Prop) (op : Engine α) : Prop := ∀ s a t, op s = .ok a t → V a

/-- Sequencing of operations that relate different things, the second under what the first yields. -/
theorem ends_bind_yields {V : α → Prop} {x : Engine α} {f : α → Engine β} (hv : Yields V x) (hx : Ends P₁ Q₁ x)
    (hf : ∀ a, V a → Ends P₂ Q₂ (f a)) (hp : ∀ a b c, P₁ a b → P₂ b c → P a c) (hq : ∀ a b, Q₁ a b → Q a b)
    (hpq : ∀ a b c, P₁ a b → Q₂ b c → Q a c) : Ends P Q (x >>= f) := by
  intro s
  rw [engine_bind_apply]
  cases h : x s with
  | ok a u =>
    have hu : P₁ s u := (hx s).1 a u h
    have hfu := hf a (hv s a u h) u
    exact ⟨fun b t e => hp _ _ _ hu (hfu.1 b t e), fun b t e => hpq _ _ _ hu (hfu.2 b t e)⟩
  | error e u =>
    refine ⟨fun b t e => by simp at e, fun b t e => ?_⟩
    cases e
    exact hq _ _ ((hx s).2 _ u h)

theorem ends_bind_of {x : Engine α} {f : α → Engine β} (hx : Ends P₁ Q₁ x) (hf : ∀ a, Ends P₂ Q₂ (f a))
    (hp : ∀ a b c, P₁ a b → P₂ b c → P a c) (hq : ∀ a b, Q₁ a b → Q a b)
    (hpq : ∀ a b c, P₁ a b → Q₂ b c → Q a c) : Ends P Q (x >>= f) :=
  ends_bind_yields (V := fun _ => True) (fun _ _ _ _ => trivial) hx (fun a _ => hf a) hp hq hpq

theorem yields_bind {V : α → Prop} {U : β → Prop} {x : Engine α} {f : α → Engine β} (hv : Yields V x)
    (hf : ∀ a, V a → Yields U (f a)) : Yields U (x >>= f) := by
  intro s b t e
  rw [engine_bind_apply] at e
  cases h : x s with
  | ok a u => rw [h] at e; exact hf a (hv s a u h) u b t e
  | error _ u => rw [h] at e; cases e

theorem yields_bind_any {U : β → Prop} {x : Engine α} {f : α → Engine β} (hf : ∀ a, Yields U (f a)) :
    Yields U (x >>= f) :=
  yields_bind (V := fun _ => True) (fun _ _ _ _ => trivial) fun a _ => hf a

theorem yields_pure {V : α → Prop} {a : α} (h : V a) : Yields V (pure a : Engine α) := by
  intro s b t e
  cases e
  exact h

theorem yields_require (p : Prop) [Decidable p] (c : Cause) (i0 i1 : Int) :
    Yields (fun _ => p) (require p c i0 i1) := by
  intro s _ t e
  by_contra h
  rw [require_false h] at e
  cases e

end

theorem yields_receive (n : Nat) (bound : Rat) : Yields (fun bs => bs.length = n) (receive n bound) := by
  intro s a t e
  rcases receive_cases n bound s with ⟨hn, h⟩ | ⟨_, acc, _, hlen, h⟩ | ⟨_, _, _, _, -, -, h⟩ <;>
    rw [h] at e <;> cases e
  · exact hn.symm
  · exact hlen

theorem bytesToWords_length (bs : List Byte) : (bytesToWords bs).length = bs.length / 2 := by
  induction bs using bytesToWords.induct with
  | case1 hi lo bs ih => simp only [bytesToWords, List.length_cons, ih]; omega
  | case2 bs short =>
    match bs with
    | [] => rfl
    | [_] => simp [bytesToWords]
    | hi :: lo :: bs => exact absurd rfl (short hi lo bs)

/-! ### What may follow a state -/

/-- The registers whose writers the spec lists (10_state.md R23, R25, R26, R33); `pr` stands for `PR` and `PRV`. -/
inductive GuardedReg where
  | crcr | hc | link | pr

/-- The guarded registers an instruction may write. -/
def writes : Instr → List GuardedReg
  | .crcInit | .crcUpdate _ => [.crcr]
  | .linkOpen | .linkClose => [.link]
  | .cfgFromUser _ _ _ _ | .cfgFromRegs _ _ | .rdCfg _ _ => [.hc]
  | .profDec _ _ | .rdProf _ _ => [.pr]
  | _ => []

/-- The part of the invariant that does not speak of the sequencer. -/
def State.DataOk (s : State) : Prop :=
  s.StoresOk ∧ (s.rl.length = cfgWords ∧ s.rdcnt.toNat ≤ 65536 ∧ s.rxacc.length ≤ rxaccBytes) ∧ s.StatusOk

/-- No transaction is open and the engine takes commands. -/
abbrev State.Idle (s : State) : Prop := s.seq = .idle ∧ s.busy = false ∧ s.pend = none

/-- A transaction is open and nothing of its response has been received. -/
abbrev State.Awaiting (s : State) : Prop :=
  s.seq ≠ .idle ∧ s.busy = true ∧ s.pend.isSome = true ∧ s.rxacc = []

/-- `t` is what an operation that writes no guarded register outside `W` may leave of `s`. -/
structure State.Follows (W : List GuardedReg) (s t : State) : Prop where
  cfg : t.cfg = s.cfg
  slots : t.hc.length = s.hc.length
  crcr : .crcr ∉ W → t.crcr = s.crcr
  hc : .hc ∉ W → t.hc = s.hc
  link : .link ∉ W → t.link = s.link
  pr : .pr ∉ W → t.pr = s.pr ∧ t.prv = s.prv
  sticky : s.fsticky &&& t.fsticky = s.fsticky
  data : s.DataOk → t.DataOk

/-- The guarded registers, the parameters and `FSTICKY`: what most operations leave as it is. -/
def State.guarded (s : State) : Config × Word × List Slot × Bool × ProfileRecord × Bool × BitVec 4 :=
  (s.cfg, s.crcr, s.hc, s.link, s.pr, s.prv, s.fsticky)

/-- Follows, and an idle engine stays idle: what a command does that opens no transaction. -/
abbrev State.Stays (W : List GuardedReg) (s t : State) : Prop := s.Follows W t ∧ (s.Idle → t.Idle)

/-- Follows, and no transaction is open: what a raise and the end of a transport operation leave. -/
abbrev State.Settles (W : List GuardedReg) (s t : State) : Prop := s.Follows W t ∧ t.Idle

/-- Follows, and the request of a transaction has just been sent. -/
abbrev State.Opens (W : List GuardedReg) (s t : State) : Prop := s.Follows W t ∧ t.Awaiting

section

variable {W : List GuardedReg} {s t u : State}

theorem State.Follows.of_same (same : t.guarded = s.guarded) (data : s.DataOk → t.DataOk) : s.Follows W t := by
  simp only [State.guarded, Prod.mk.injEq] at same
  obtain ⟨cfg, crcr, hc, link, pr, prv, sticky⟩ := same
  exact ⟨cfg, by rw [hc], fun _ => crcr, fun _ => hc, fun _ => link, fun _ => ⟨pr, prv⟩,
    by rw [sticky, BitVec.and_self], data⟩

theorem State.Stays.of_same (same : t.guarded = s.guarded) (data : s.DataOk → t.DataOk) (idle : s.Idle → t.Idle) :
    s.Stays W t :=
  ⟨.of_same same data, idle⟩

theorem State.Follows.refl (s : State) : s.Follows W s := .of_same rfl id

theorem State.Follows.trans (h : s.Follows W t) (k : t.Follows W u) : s.Follows W u where
  cfg := k.cfg.trans h.cfg
  slots := k.slots.trans h.slots
  crcr free := (k.crcr free).trans (h.crcr free)
  hc free := (k.hc free).trans (h.hc free)
  link free := (k.link free).trans (h.link free)
  pr free := ⟨(k.pr free).1.trans (h.pr free).1, (k.pr free).2.trans (h.pr free).2⟩
  sticky := by rw [← h.sticky, BitVec.and_assoc, k.sticky]
  data ok := k.data (h.data ok)

theorem State.Stays.refl (s : State) : s.Stays W s := ⟨.refl s, id⟩

theorem State.Stays.trans (h : s.Stays W t) (k : t.Stays W u) : s.Stays W u := ⟨h.1.trans k.1, k.2 ∘ h.2⟩

theorem State.Settles.stays (h : s.Settles W t) : s.Stays W t := ⟨h.1, fun _ => h.2⟩

theorem State.Follows.settles (h : s.Follows W t) (k : t.Settles W u) : s.Settles W u := ⟨h.trans k.1, k.2⟩

/-! ### The writes of the engine -/

theorem and_or_left_absorb {w : Nat} (x y : BitVec w) : x &&& (x ||| y) = x := by
  ext i
  simpa using .inl

theorem or_and_right_absorb {w : Nat} (x y : BitVec w) : (x ||| y) &&& y = y := by
  ext i
  simpa using .inr

theorem State.settles_raise (s : State) (c : Cause) (i0 i1 : Int) : s.Settles W (s.raise c i0 i1) := by
  have sticky : s.fsticky &&& (s.raise c i0 i1).fsticky = s.fsticky := by
    rw [State.raise_fsticky, and_or_left_absorb]
  have recorded : (s.raise c i0 i1).fsticky &&& c.kind.stickyBit = c.kind.stickyBit := by
    rw [State.raise_fsticky, or_and_right_absorb]
  exact ⟨⟨rfl, rfl, fun _ => rfl, fun _ => rfl, fun _ => rfl, fun _ => ⟨rfl, rfl⟩, sticky,
    fun ⟨stores, ranges, _⟩ => ⟨stores, ranges, .inr ⟨c, rfl, recorded⟩⟩⟩, rfl, rfl, rfl⟩

theorem State.stays_succeed (s : State) : s.Stays W { s with status := 0 } :=
  .of_same rfl (fun ⟨stores, ranges, _⟩ => ⟨stores, ranges, .inl rfl⟩) id

theorem State.settles_finished (s : State) : s.Settles W s.finished :=
  ⟨.of_same rfl fun ⟨stores, ranges, _⟩ => ⟨stores, ranges, .inl rfl⟩, rfl, rfl, rfl⟩

theorem State.stays_writeCrcr (s : State) (c : Word) : s.Stays [.crcr] { s with crcr := c } :=
  ⟨⟨rfl, rfl, by simp, fun _ => rfl, fun _ => rfl, fun _ => ⟨rfl, rfl⟩, BitVec.and_self, id⟩, id⟩

theorem State.stays_writeLink (s : State) (link : Bool) : s.Stays [.link] { s with link := link } :=
  ⟨⟨rfl, rfl, fun _ => rfl, fun _ => rfl, by simp, fun _ => ⟨rfl, rfl⟩, BitVec.and_self, id⟩, id⟩

theorem State.stays_loadSlot (s : State) (i : Nat) (h : HwConfig) : s.Stays [.hc] (s.loadSlot i h) :=
  ⟨⟨rfl, List.length_set, fun _ => rfl, by simp, fun _ => rfl, fun _ => ⟨rfl, rfl⟩, BitVec.and_self, id⟩, id⟩

theorem State.stays_writeProfile (s : State) (pr : ProfileRecord) (gt : List Gain) :
    s.Stays [.pr] { s with pr := pr, prv := true, gt := gt } :=
  ⟨⟨rfl, rfl, fun _ => rfl, fun _ => rfl, fun _ => rfl, by simp, BitVec.and_self, id⟩, id⟩

/-- `RL` keeps its 17 words. -/
theorem State.stays_toRegs (s : State) (h : HwConfig) : s.Stays W { s with rl := h.toRegs } :=
  .of_same rfl (fun ⟨stores, ⟨_, rdcnt, rxacc⟩, status⟩ => ⟨stores, ⟨rfl, rdcnt, rxacc⟩, status⟩) id

theorem State.follows_rxDone (s : State) (free : Bool) (acc : List Byte) (rest : List RxStep) :
    s.Follows W (s.rxDone free acc rest) :=
  .of_same rfl fun ⟨stores, ⟨rl, rdcnt, _⟩, status⟩ => ⟨stores, ⟨rl, rdcnt, accumulate_length _ _⟩, status⟩

/-- A write of the read buffer inside its index range, with the number of words it holds. -/
theorem State.DataOk.writeRdb (h : s.DataOk) {i : Nat} {w : List Word} {n : BitVec 17} (range : i + w.length ≤ 65536)
    (count : n.toNat ≤ 65536) : { s with rdb := cellsWriteAll s.rdb i w, rdcnt := n }.DataOk := by
  obtain ⟨⟨rdbWf, errbufWf, rdbIx, errbufIx⟩, ⟨rl, _, rxacc⟩, status⟩ := h
  exact ⟨⟨cellsWf_writeAll _ _ _ rdbWf, errbufWf, cellsWriteAll_index_lt _ _ _ _ range rdbIx, errbufIx⟩,
    ⟨rl, count, rxacc⟩, status⟩

theorem State.DataOk.writeRdcnt (h : s.DataOk) {n : BitVec 17} (count : n.toNat ≤ 65536) :
    { s with rdcnt := n }.DataOk :=
  h.writeRdb (i := 0) (w := []) (Nat.zero_le _) count

theorem State.follows_readFailed (s : State) : s.Follows W s.readFailed :=
  .of_same rfl fun ⟨⟨_, errbufWf, _, errbufIx⟩, ⟨rl, _, rxacc⟩, status⟩ =>
    have range : 0 + ((Config.freeRdb s.draws).take 65536).length ≤ 65536 := by simp
    ⟨⟨cellsWf_writeAll _ _ _ rfl, errbufWf, cellsWriteAll_index_lt _ _ _ _ range (by simp), errbufIx⟩,
      ⟨rl, by simp, rxacc⟩, status⟩

theorem State.Settles.readFailed (h : s.Settles W t) : s.Settles W t.readFailed :=
  ⟨h.1.trans t.follows_readFailed, h.2⟩

theorem State.stays_txDrawn (s : State) : s.Stays W s.txDrawn := by
  unfold State.txDrawn
  split <;> exact .of_same rfl id id

theorem State.stays_openDrawn (s : State) : s.Stays W s.openDrawn := by
  unfold State.openDrawn
  split <;> exact .of_same rfl id id

theorem State.follows_transmitted (s : State) (sent : List Byte) : s.Follows W { s.txDrawn with sent := sent } :=
  s.stays_txDrawn.1.trans (.of_same rfl id)

end

/-! ### Operations that open no transaction -/

/-- An operation outside a transaction: it leaves an idle engine idle, and every raise does. -/
abbrev Commands {α : Type} (W : List GuardedReg) (op : Engine α) : Prop := Ends (State.Stays W) (State.Settles W) op

/-- A piece of a transaction: `BUSY` may stay 1, but a raise closes the transaction. -/
abbrev Transacts {α : Type} (W : List GuardedReg) (op : Engine α) : Prop :=
  Ends (State.Follows W) (State.Settles W) op

section

variable {W : List GuardedReg} {α β : Type}

theorem Commands.transacts {op : Engine α} (h : Commands W op) : Transacts W op :=
  ends_mono h (fun _ _ => And.left) fun _ _ => id

theorem Commands.bind {x : Engine α} {f : α → Engine β} (hx : Commands W x) (hf : ∀ a, Commands W (f a)) :
    Commands W (x >>= f) :=
  ends_bind (fun _ _ _ => .trans) (fun _ _ _ h => h.1.settles) hx hf

theorem Transacts.bind {x : Engine α} {f : α → Engine β} (hx : Transacts W x) (hf : ∀ a, Transacts W (f a)) :
    Transacts W (x >>= f) :=
  ends_bind (fun _ _ _ => .trans) (fun _ _ _ h => h.settles) hx hf

theorem Transacts.bind_yields {V : α → Prop} {x : Engine α} {f : α → Engine β} (hx : Transacts W x) (hv : Yields V x)
    (hf : ∀ a, V a → Transacts W (f a)) : Transacts W (x >>= f) :=
  ends_bind_yields hv hx hf (fun _ _ _ => .trans) (fun _ _ => id) (fun _ _ _ h => h.settles)

/-- A piece of a transaction goes before anything that may start from a state that follows. -/
theorem Transacts.bind_of {P : State → State → Prop} (hp : ∀ s t u, s.Follows W t → P t u → P s u) {x : Engine α}
    {f : α → Engine β} (hx : Transacts W x) (hf : ∀ a, Ends P (State.Settles W) (f a)) :
    Ends P (State.Settles W) (x >>= f) :=
  ends_bind_of hx hf hp (fun _ _ => id) fun _ _ _ h => h.settles

theorem Transacts.bind_settles {x : Engine α} {f : α → Engine β} (hx : Transacts W x)
    (hf : ∀ a, Keeps (State.Settles W) (f a)) : Keeps (State.Settles W) (x >>= f) :=
  hx.bind_of (P := State.Settles W) (fun _ _ _ h => h.settles) hf

theorem Transacts.bind_opens {x : Engine α} {f : α → Engine β} (hx : Transacts W x)
    (hf : ∀ a, Ends (State.Opens W) (State.Settles W) (f a)) : Ends (State.Opens W) (State.Settles W) (x >>= f) :=
  hx.bind_of (P := State.Opens W) (fun _ _ _ h k => ⟨h.trans k.1, k.2⟩) hf

theorem commands_of_settles {op : Engine α} (h : Keeps (State.Settles W) op) : Commands W op :=
  ends_mono h (fun _ _ => State.Settles.stays) fun _ _ => id

theorem commands_inspect (f : State → α) : Commands W (inspect f) := ends_inspect .refl f

theorem commands_raise (c : Cause) (i0 i1 : Int) : Commands W (raise c i0 i1 : Engine α) :=
  ends_raise fun s => s.settles_raise c i0 i1

theorem commands_require (p : Prop) [Decidable p] (c : Cause) (i0 i1 : Int) : Commands W (require p c i0 i1) :=
  ends_require .refl fun s => s.settles_raise c i0 i1

theorem commands_succeed : Commands W succeed := ends_update State.stays_succeed

theorem commands_update {f : State → State} (h : ∀ s : State, s.Stays W (f s)) : Commands W (update f) :=
  ends_update h

/-- The shape of most commands: one write, then success. -/
theorem commands_write {f : State → State} (h : ∀ s : State, s.Stays W (f s)) :
    Commands W (do update f; succeed) :=
  (commands_update h).bind fun _ => commands_succeed

theorem commands_checkSlot (i : Nat) : Commands W (checkSlot i) :=
  (commands_inspect _).bind fun _ => commands_require _ _ _ _

theorem commands_checkLoaded (i : Nat) : Commands W (checkLoaded i) :=
  (commands_inspect _).bind fun _ => commands_require _ _ _ _

/-! ### Units U0, U2, U3, U5 and the link registers -/

theorem commands_crcCompute (d : List Byte) : Commands W (opCrcCompute d) := commands_write fun _ => .of_same rfl id id

theorem commands_crcInit : Commands [.crcr] opCrcInit := commands_write fun s => s.stays_writeCrcr _

theorem commands_crcUpdate (b : Byte) : Commands [.crcr] (opCrcUpdate b) := commands_write fun s => s.stays_writeCrcr _

theorem commands_crcRead : Commands W opCrcRead := commands_write fun _ => .of_same rfl id id

theorem commands_crcCheck (f : List Byte) : Commands W (opCrcCheck f) :=
  (commands_require _ _ _ _).bind fun _ => commands_write fun _ => .of_same rfl id id

theorem commands_castS16 (x : Rat) : Commands W (opCastS16 x) := commands_write fun _ => .of_same rfl id id

theorem commands_castU16 (x : Rat) : Commands W (opCastU16 x) := commands_write fun _ => .of_same rfl id id

theorem commands_gS2C (a1 r : Rat) : Commands W (opGS2C a1 r) := commands_write fun _ => .of_same rfl id id

theorem commands_gC2S (code r : Rat) : Commands W (opGC2S code r) :=
  (commands_require _ _ _ _).bind fun _ => commands_write fun _ => .of_same rfl id id

theorem commands_gI2C (a0 : Rat) : Commands W (opGI2C a0) := commands_write fun _ => .of_same rfl id id

theorem commands_gC2I (code : Rat) : Commands W (opGC2I code) := commands_write fun _ => .of_same rfl id id

theorem commands_gTable (n : BitVec 15) (ci cs bi bs : Rat) : Commands W (opGTable n ci cs bi bs) :=
  commands_write fun _ => .of_same rfl id id

theorem commands_tsEnc (sec ms : Int) : Commands W (opTsEnc sec ms) :=
  (commands_require _ _ _ _).bind fun _ => (commands_require _ _ _ _).bind fun _ =>
    commands_write fun _ => .of_same rfl id id

theorem commands_tsDec (w0 w1 w2 : Word) : Commands W (opTsDec w0 w1 w2) := commands_write fun _ => .of_same rfl id id

theorem commands_csrRd (r : Byte) : Commands W (opCsrRd r) := by
  refine (commands_inspect _).bind fun v => ?_
  cases v with
  | some x => exact commands_update fun _ => .of_same rfl id id
  | none => exact commands_raise _ _ _

theorem commands_csrWr (r : Byte) (value : Rat) : Commands W (opCsrWr r value) :=
  (commands_require _ _ _ _).bind fun _ => commands_write fun _ => .of_same rfl id id

theorem commands_linkOpen : Commands [.link] opLinkOpen := by
  have answer (ok : Bool) : Commands [.link] (update fun s => { s.openDrawn with link := ok }) :=
    commands_update fun s => s.stays_openDrawn.trans (State.stays_writeLink _ _)
  exact (commands_inspect _).bind fun a => (answer a.ok).bind fun _ => (commands_require _ _ _ _).bind fun _ =>
    commands_succeed

theorem commands_linkClose : Commands [.link] opLinkClose := commands_write fun s => s.stays_writeLink _

/-! ### Units U4 and U6 -/

theorem commands_cfgFromUser (i : Nat) (a : AcousticConfig) (c : Rat) (blind : Option BlindLimits) :
    Commands [.hc] (opCfgFromUser i a c blind) :=
  (commands_checkSlot i).bind fun _ => (commands_inspect _).bind fun _ => (commands_require _ _ _ _).bind fun _ =>
    (commands_require _ _ _ _).bind fun _ => commands_write fun s => s.stays_loadSlot i _

theorem commands_cfgFromRegs (i : Nat) (l : List Word) : Commands [.hc] (opCfgFromRegs i l) := by
  refine (commands_checkSlot i).bind fun _ => ?_
  cases HwConfig.ofRegs l with
  | none => exact commands_raise _ _ _
  | some h => exact commands_write fun s => s.stays_loadSlot i h

theorem commands_cfgToRegs (i : Nat) : Commands W (opCfgToRegs i) :=
  (commands_checkSlot i).bind fun _ => (commands_checkLoaded i).bind fun _ =>
    commands_write fun s => s.stays_toRegs (s.slotRegs i)

theorem commands_cfgToUser (i : Nat) (c : Rat) : Commands W (opCfgToUser i c) :=
  ends_onFault
    ((commands_checkSlot i).bind fun _ => (commands_checkLoaded i).bind fun _ => (commands_inspect _).bind fun _ =>
      (commands_require _ _ _ _).bind fun _ => commands_write fun _ => .of_same rfl id id)
    fun _ _ h => ⟨h.1.trans (.of_same rfl id), h.2⟩

theorem commands_cfgBlockDur (i : Nat) : Commands W (opCfgBlockDur i) :=
  (commands_checkSlot i).bind fun _ => (commands_checkLoaded i).bind fun _ => commands_write fun _ => .of_same rfl id id

theorem commands_cfgEq (i j : Nat) : Commands W (opCfgEq i j) :=
  (commands_checkSlot i).bind fun _ => (commands_checkSlot j).bind fun _ => (commands_checkLoaded i).bind fun _ =>
    (commands_checkLoaded j).bind fun _ => commands_write fun _ => .of_same rfl id id

theorem commands_profDec (pb : List Byte) (i : Nat) : Commands [.pr] (opProfDec pb i) :=
  (commands_checkSlot i).bind fun _ => (commands_checkLoaded i).bind fun _ => (commands_inspect _).bind fun _ =>
    (commands_require _ _ _ _).bind fun _ => (commands_require _ _ _ _).bind fun _ =>
      commands_write fun s => s.stays_writeProfile _ _

/-! ### Unit U1: the request of a transaction -/

theorem transacts_update {f : State → State} (h : ∀ s : State, s.Follows W (f s)) : Transacts W (update f) :=
  ends_update h

theorem transacts_startTransaction : Transacts W startTransaction := transacts_update fun _ => .of_same rfl id

theorem transacts_moveSeq (q : Seq) : Transacts W (moveSeq q) := transacts_update fun _ => .of_same rfl id

theorem commands_checkLink : Commands W checkLink :=
  (commands_inspect _).bind fun _ => commands_require _ _ _ _

theorem settles_finishTransport : Keeps (State.Settles W) finishTransport := ends_update State.settles_finished

theorem transmit_follows (frame : List Byte) :
    Ends (fun s t => s.Follows W t ∧ t.busy = s.busy ∧ t.rxacc = s.rxacc) (State.Settles W) (transmit frame) :=
  ends_transmit frame (fun s => ⟨s.follows_transmitted _, by simp, by simp⟩)
    fun s _ => (s.follows_transmitted _).settles (State.settles_raise _ _ _ _)

/-- Sending a request while `BUSY = 1` opens the transaction. -/
theorem sendRequest_opens (q : List Byte) (p : Pending) :
    Ends (fun s t => s.Follows W t ∧ (s.busy = true → t.Awaiting)) (State.Settles W) (sendRequest q p) := by
  have clear : Ends (fun s t => s.Follows W t ∧ t.busy = s.busy ∧ t.rxacc = []) (State.Settles W)
      (update fun s => { s with rxacc := [], seq := .tx }) :=
    ends_update fun _ => ⟨.of_same rfl fun ⟨stores, ⟨rl, rdcnt, _⟩, status⟩ =>
      ⟨stores, ⟨rl, rdcnt, Nat.zero_le _⟩, status⟩, rfl, rfl⟩
  have wait : Ends (fun s t => s.Follows W t ∧ (s.busy = true → s.rxacc = [] → t.Awaiting)) (State.Settles W)
      (update fun s => { s with seq := .rx1, pend := some p }) :=
    ends_update fun _ => ⟨.of_same rfl id, fun busy empty => ⟨nofun, busy, rfl, empty⟩⟩
  have send : Ends (fun s t => s.Follows W t ∧ (s.busy = true → s.rxacc = [] → t.Awaiting)) (State.Settles W) (do
      transmit (sealFrame q)
      update fun s => { s with seq := .rx1, pend := some p }) :=
    ends_bind_of (transmit_follows _) (fun _ => wait)
      (fun _ _ _ ⟨sent, busy, rxacc⟩ ⟨waits, opens⟩ =>
        ⟨sent.trans waits, fun b e => opens (busy.trans b) (rxacc.trans e)⟩)
      (fun _ _ => id) fun _ _ _ ⟨sent, _⟩ => sent.settles
  exact ends_bind_of clear (fun _ => send)
    (fun _ _ _ ⟨cleared, busy, rxacc⟩ ⟨sent, opens⟩ => ⟨cleared.trans sent, fun b => opens (busy.trans b) rxacc⟩)
    (fun _ _ => id) fun _ _ _ ⟨cleared, _⟩ => cleared.settles

/-- A transaction that starts and sends its request is open. -/
theorem start_sendRequest_opens (body : Byte → List Byte) (p : Pending) :
    Ends (State.Opens W) (State.Settles W) (do
      startTransaction
      let slave ← inspect fun s => s.cfg.slaveAddr
      sendRequest (body slave) p) := by
  have start : Ends (fun s t : State => s.Follows W t ∧ t.busy = true) (State.Settles W) startTransaction :=
    ends_update fun _ => ⟨.of_same rfl id, rfl⟩
  have send : Ends (fun s t : State => s.Follows W t ∧ (s.busy = true → t.Awaiting)) (State.Settles W) (do
      let slave ← inspect fun s => s.cfg.slaveAddr
      sendRequest (body slave) p) := fun s => sendRequest_opens (body s.cfg.slaveAddr) p s
  exact ends_bind_of start (fun _ => send) (fun _ _ _ h k => ⟨h.1.trans k.1, k.2 h.2⟩) (fun _ _ => id)
    fun _ _ _ h => h.1.settles

/-- The first write of every read (41_transport.md R177). -/
theorem transacts_clearCounts : Transacts W (update fun s => { s with rdcnt := 0, segcnt := 0 }) :=
  transacts_update fun _ => .of_same rfl fun ok => ok.writeRdcnt (Nat.zero_le _)

theorem beginRead_opens (addr count : Word) (bound : Rat) :
    Ends (State.Opens W) (State.Settles W) (beginRead addr count bound) :=
  transacts_clearCounts.bind_opens fun _ => (commands_require _ _ _ _).transacts.bind_opens fun _ =>
    (commands_require _ _ _ _).transacts.bind_opens fun _ => commands_checkLink.transacts.bind_opens fun _ =>
      start_sendRequest_opens (fun slave => readBody slave addr count) _

theorem commands_checkWrite (addr : Word) (n : Nat) : Commands W (checkWrite addr n) := by
  refine ends_onFault ((commands_require _ _ _ _).bind fun _ => commands_require _ _ _ _) fun s t h => ?_
  exact ⟨h.1.trans (.of_same rfl fun ok => ok.writeRdcnt (Nat.zero_le _)), h.2⟩

theorem beginWrite_opens (addr : Word) (v : List Word) (bound : Rat) :
    Ends (State.Opens W) (State.Settles W) (beginWrite addr v bound) := by
  have clear : Transacts W (update fun s => { s with segcnt := 0 }) := transacts_update fun _ => .of_same rfl id
  exact clear.bind_opens fun _ => (commands_checkWrite _ _).transacts.bind_opens fun _ =>
    commands_checkLink.transacts.bind_opens fun _ => start_sendRequest_opens (fun slave => writeBody slave addr v) _

/-! ### Unit U1: the response of a transaction -/

theorem transacts_receive (n : Nat) (bound : Rat) : Transacts W (receive n bound) :=
  ends_receive .refl State.follows_rxDone
    (fun s free acc rest _ _ _ _ => (s.follows_rxDone free acc rest).settles (State.settles_raise _ _ _ _)) n bound

theorem transacts_require (p : Prop) [Decidable p] (c : Cause) (i0 i1 : Int) : Transacts W (require p c i0 i1) :=
  (commands_require p c i0 i1).transacts

theorem transacts_checkSlave (h : Byte) : Transacts W (checkSlave h) :=
  ((commands_inspect _).bind fun _ => commands_require _ _ _ _).transacts

theorem transacts_receiveRead (count : Word) (bound : Rat) : Transacts W (receiveRead count bound) :=
  (transacts_moveSeq _).bind fun _ => (transacts_receive _ _).bind fun _ => (transacts_checkSlave _).bind fun _ =>
    (transacts_require _ _ _ _).bind fun _ => (transacts_moveSeq _).bind fun _ => (transacts_receive _ _).bind fun _ =>
      (transacts_moveSeq _).bind fun _ => (transacts_require _ _ _ _).bind fun _ =>
        (transacts_require _ _ _ _).bind fun _ => ends_pure .refl _

/-- A read delivers no more words than it asked for: the byte count was checked (41_transport.md R200). -/
theorem yields_receiveRead (count : Word) (bound : Rat) :
    Yields (fun w => w.length ≤ count.toNat) (receiveRead count bound) := by
  refine yields_bind_any fun _ => yields_bind_any fun h => yields_bind_any fun _ => yields_bind_any fun _ =>
    yields_bind_any fun _ => yields_bind_any fun t => yields_bind_any fun _ => yields_bind_any fun _ =>
      yields_bind (yields_require _ _ _ _) fun _ byteCount => yields_pure ?_
  rw [bytesToWords_length, List.length_take, byteCount]
  omega

theorem transacts_receiveAck (h : List Byte) (bound : Rat) : Transacts W (receiveAck h bound) :=
  (transacts_moveSeq _).bind fun _ => (transacts_receive _ _).bind fun _ => (transacts_moveSeq _).bind fun _ =>
    (transacts_require _ _ _ _).bind fun _ => transacts_update fun _ => .of_same rfl id

/-- `ERRBUF` holds the payload of one failure response, at most 255 bytes. -/
theorem State.follows_errbuf (s : State) {p : List Byte} (len : p.length ≤ 255) :
    s.Follows W { s with errbuf := cellsWriteAll s.errbuf 0 p } :=
  .of_same rfl fun ⟨⟨rdbWf, errbufWf, rdbIx, errbufIx⟩, ranges, status⟩ =>
    ⟨⟨rdbWf, cellsWf_writeAll _ _ _ errbufWf, rdbIx, cellsWriteAll_index_lt _ _ _ _ (by omega) errbufIx⟩, ranges,
      status⟩

theorem transacts_receiveNak (errFunc : Byte) (bound : Rat) : Transacts W (receiveNak errFunc bound) := by
  have writeFunc : Transacts W (update fun s => { s with errfunc := errFunc }) :=
    transacts_update fun _ => .of_same rfl id
  have writeLen (len : Byte) : Transacts W (update fun s => { s with errlen := len }) :=
    transacts_update fun _ => .of_same rfl id
  exact writeFunc.bind fun _ => (transacts_moveSeq _).bind fun _ => (transacts_receive _ _).bind fun l =>
    (writeLen (byteAt l 0)).bind fun _ => (transacts_moveSeq _).bind fun _ =>
      (transacts_receive _ _).bind_yields (yields_receive _ _) fun p len =>
        (transacts_update fun s => s.follows_errbuf (by omega)).bind fun _ => (commands_raise _ _ _).transacts

theorem transacts_receiveWrite (bound : Rat) : Transacts W (receiveWrite bound) := by
  refine (transacts_moveSeq _).bind fun _ => (transacts_receive _ _).bind fun h =>
    (transacts_checkSlave _).bind fun _ => ?_
  split
  · exact transacts_receiveAck _ _
  · exact transacts_receiveNak _ _

theorem endRead_settles (count : Word) (bound : Rat) : Keeps (State.Settles W) (endRead count bound) := by
  have deliver : ∀ w : List Word, w.length ≤ count.toNat →
      Transacts W (update fun s => { s with rdb := cellsWriteAll s.rdb 0 w, rdcnt := count.setWidth 17 }) :=
    fun w len => transacts_update fun _ => .of_same rfl fun ok => ok.writeRdb (by omega) (by simp; omega)
  exact ends_bind_yields (yields_receiveRead count bound) (transacts_receiveRead count bound)
    (fun w len => (deliver w len).bind_settles fun _ => settles_finishTransport) (fun _ _ _ h => h.settles)
    (fun _ _ => id) fun _ _ _ h => h.settles

theorem endWrite_settles (bound : Rat) : Keeps (State.Settles W) (endWrite bound) :=
  (transacts_receiveWrite bound).bind_settles fun _ => settles_finishTransport

/-! ### Unit U1: whole transport operations -/

theorem opens_bind_settles {α β : Type} {x : Engine α} {f : α → Engine β}
    (hx : Ends (State.Opens W) (State.Settles W) x) (hf : ∀ a, Keeps (State.Settles W) (f a)) :
    Keeps (State.Settles W) (x >>= f) :=
  Transacts.bind_settles (ends_mono hx (fun _ _ => And.left) fun _ _ => id) hf

theorem opRdW_settles (addr count : Word) (tmo : Option Rat) : Keeps (State.Settles W) (opRdW addr count tmo) :=
  (commands_inspect _).transacts.bind_settles fun bound =>
    ends_onFault (opens_bind_settles (beginRead_opens addr count bound) fun _ => endRead_settles count bound)
      fun _ _ => State.Settles.readFailed

theorem opWrW_settles (addr : Word) (v : List Word) (tmo : Option Rat) : Keeps (State.Settles W) (opWrW addr v tmo) :=
  (commands_inspect _).transacts.bind_settles fun bound =>
    opens_bind_settles (beginWrite_opens addr v bound) fun _ => endWrite_settles bound

theorem opRdreq_opens (addr count : Word) : Ends (State.Opens W) (State.Settles W) (opRdreq addr count) :=
  (commands_inspect _).transacts.bind_opens fun bound =>
    ends_onFault (beginRead_opens addr count bound) fun _ _ => State.Settles.readFailed

theorem opWrreq_opens (addr : Word) (v : List Word) : Ends (State.Opens W) (State.Settles W) (opWrreq addr v) :=
  (commands_inspect _).transacts.bind_opens fun bound => beginWrite_opens addr v bound

theorem transacts_memRead (addr count : Word) (bound : Rat) : Transacts W (memRead addr count bound) := by
  have send : Transacts W (sendRead addr count bound) :=
    (commands_inspect _).transacts.bind fun _ => ends_mono (sendRequest_opens _ _) (fun _ _ => And.left) fun _ _ => id
  exact send.bind fun _ => transacts_receiveRead count bound

theorem yields_memRead (addr count : Word) (bound : Rat) :
    Yields (fun w => w.length ≤ count.toNat) (memRead addr count bound) :=
  yields_bind_any fun _ => yields_receiveRead count bound

/-- A segment is delivered inside the buffer, whatever `REM` is: it has at most 125 words, and at most `REM`. -/
theorem transacts_readSegment {total : BitVec 17} (range : total.toNat ≤ 65536) (bound : Rat) :
    Transacts W (readSegment total bound) := by
  refine (commands_inspect _).transacts.bind fun cur => (commands_inspect _).transacts.bind fun rem =>
    transacts_startTransaction.bind fun _ => (transacts_memRead _ _ _).bind_yields (yields_memRead _ _ _) fun w len => ?_
  refine transacts_update fun s => .of_same rfl fun ok => ok.writeRdb ?_ ok.2.1.2.1
  simp [maxRd] at len
  omega

theorem transacts_readSegments {total : BitVec 17} (range : total.toNat ≤ 65536) (bound : Rat) (fuel : Nat) :
    Transacts W (readSegments total bound fuel) := by
  induction fuel with
  | zero => exact ends_pure .refl ()
  | succ fuel ih =>
    refine (commands_inspect _).transacts.bind fun rem => ?_
    split
    · exact ends_pure .refl ()
    · exact (transacts_readSegment range bound).bind fun _ => ih

theorem opRdBuf_settles (addr : Word) (total : Nat) (tmo : Option Rat) :
    Keeps (State.Settles W) (opRdBuf addr total tmo) := by
  refine (commands_inspect _).transacts.bind_settles fun bound =>
    ends_onFault (transacts_clearCounts.bind_settles fun _ => ?_) fun _ _ => State.Settles.readFailed
  refine ends_bind_yields (yields_require _ _ _ _) (transacts_require _ _ _ _) (fun _ fits => ?_)
    (fun _ _ _ h => h.settles) (fun _ _ => id) fun _ _ _ h => h.settles
  have range : (BitVec.ofNat 17 total).toNat ≤ 65536 := by simp; omega
  have start : Transacts W (update fun s =>
      { s with busy := true, cur := addr.setWidth 17, rem := BitVec.ofNat 17 total }) :=
    transacts_update fun _ => .of_same rfl id
  have deliver : Transacts W (update fun s => { s with rdcnt := BitVec.ofNat 17 total }) :=
    transacts_update fun _ => .of_same rfl fun ok => ok.writeRdcnt range
  exact commands_checkLink.transacts.bind_settles fun _ => start.bind_settles fun _ =>
    (transacts_readSegments range bound _).bind_settles fun _ => deliver.bind_settles fun _ => settles_finishTransport

/-! ### Pseudo-operations -/

theorem commands_wrCfg (i : Nat) (a : Word) : Commands W (opWrCfg i a) :=
  (commands_cfgToRegs i).bind fun _ => (commands_inspect _).bind fun _ => commands_of_settles (opWrW_settles _ _ _)

theorem commands_rdCfg (i : Nat) (a : Word) : Commands [.hc] (opRdCfg i a) :=
  (commands_of_settles (opRdW_settles _ _ _)).bind fun _ => (commands_inspect _).bind fun _ => commands_cfgFromRegs i _

theorem commands_rdProf (i : Nat) (a : Word) : Commands [.pr] (opRdProf i a) := by
  have draw : Commands [.pr] (update fun s => { s with draws := s.draws + 1 }) :=
    commands_update fun _ => .of_same rfl id id
  exact (commands_checkSlot i).bind fun _ => (commands_checkLoaded i).bind fun _ =>
    (commands_inspect _).bind fun total => draw.bind fun _ =>
      (commands_of_settles (opRdBuf_settles a total none)).bind fun _ =>
        (commands_inspect _).bind fun pb => commands_profDec pb i

end

/-! ### Instructions -/

/-- No transaction is open, or one is and nothing of its response has been received. -/
abbrev State.Sequenced (s : State) : Prop := s.Idle ∨ s.Awaiting

/-- What an instruction that writes `W` may leave of `s`: from an idle engine, at most an open transaction. -/
abbrev State.Performs (W : List GuardedReg) (s t : State) : Prop := s.Follows W t ∧ (s.Idle → t.Sequenced)

section

variable {W : List GuardedReg}

theorem Commands.performs {op : Engine Unit} (h : Commands W op) (s : State) : s.Performs W (runOp op s) := by
  have stays : s.Stays W (runOp op s) := (ends_runOp h s).elim id State.Settles.stays
  exact ⟨stays.1, fun idle => .inl (stays.2 idle)⟩

theorem opens_performs {op : Engine Unit} (h : Ends (State.Opens W) (State.Settles W) op) (s : State) :
    s.Performs W (runOp op s) :=
  (ends_runOp h s).elim (fun opens => ⟨opens.1, fun _ => .inr opens.2⟩) fun settles =>
    ⟨settles.1, fun _ => .inl settles.2⟩

/-- The engine's own move closes the transaction, whatever the response (60_exceptions.md R323). -/
theorem State.completePending_settles (s : State) (p : Pending) : s.Settles W (s.completePending p) := by
  unfold State.completePending
  split
  · exact keeps_runOp (ends_onFault (endRead_settles _ _) fun _ _ => State.Settles.readFailed) s
  · exact keeps_runOp (endWrite_settles _) s

theorem State.deliver_follows (s : State) (bytes : List Byte) : s.Follows W (s.deliver bytes) := by
  have arrives : s.Follows W { s with env := { s.env with rx := s.env.rx ++ [⟨.data bytes, false⟩] } } :=
    .of_same rfl id
  unfold State.deliver
  split
  · exact arrives.trans (State.completePending_settles _ _).1
  · exact arrives

theorem State.deliver_sequenced (s : State) (bytes : List Byte) (h : s.Sequenced) : (s.deliver bytes).Sequenced := by
  unfold State.deliver
  split
  · exact .inl (State.completePending_settles (W := []) _ _).2
  · exact h

theorem State.deliver_performs (s : State) (bytes : List Byte) : s.Performs W (s.deliver bytes) :=
  ⟨s.deliver_follows bytes, fun idle => s.deliver_sequenced bytes (.inl idle)⟩

end

/-- Every instruction ends in a next state, and in no other way than its writes allow. -/
theorem exec_performs (i : Instr) (s : State) : ∃ t, exec i s = .next t ∧ s.Performs (writes i) t := by
  cases i with
  | crcCompute d => exact ⟨_, rfl, (commands_crcCompute d).performs s⟩
  | crcInit => exact ⟨_, rfl, commands_crcInit.performs s⟩
  | crcUpdate b => exact ⟨_, rfl, (commands_crcUpdate b).performs s⟩
  | crcRead => exact ⟨_, rfl, commands_crcRead.performs s⟩
  | crcCheck f => exact ⟨_, rfl, (commands_crcCheck f).performs s⟩
  | rdW addr count tmo => exact ⟨_, rfl, (commands_of_settles (opRdW_settles addr count tmo)).performs s⟩
  | wrW addr v tmo => exact ⟨_, rfl, (commands_of_settles (opWrW_settles addr v tmo)).performs s⟩
  | rdBuf addr total tmo => exact ⟨_, rfl, (commands_of_settles (opRdBuf_settles addr total.toNat tmo)).performs s⟩
  | wrBuf addr v tmo => exact ⟨_, rfl, (commands_of_settles (opWrW_settles addr v tmo)).performs s⟩
  | csrRd r => exact ⟨_, rfl, (commands_csrRd r).performs s⟩
  | csrWr r value => exact ⟨_, rfl, (commands_csrWr r value).performs s⟩
  | linkOpen => exact ⟨_, rfl, commands_linkOpen.performs s⟩
  | linkClose => exact ⟨_, rfl, commands_linkClose.performs s⟩
  | castS16 x => exact ⟨_, rfl, (commands_castS16 x).performs s⟩
  | castU16 x => exact ⟨_, rfl, (commands_castU16 x).performs s⟩
  | gS2C a1 r => exact ⟨_, rfl, (commands_gS2C a1 r).performs s⟩
  | gC2S code r => exact ⟨_, rfl, (commands_gC2S code r).performs s⟩
  | gI2C a0 => exact ⟨_, rfl, (commands_gI2C a0).performs s⟩
  | gC2I code => exact ⟨_, rfl, (commands_gC2I code).performs s⟩
  | gTable n ci cs bi bs => exact ⟨_, rfl, (commands_gTable n ci cs bi bs).performs s⟩
  | cfgFromUser k a c blind => exact ⟨_, rfl, (commands_cfgFromUser k a c blind).performs s⟩
  | cfgFromRegs k l => exact ⟨_, rfl, (commands_cfgFromRegs k l).performs s⟩
  | cfgToRegs k => exact ⟨_, rfl, (commands_cfgToRegs k).performs s⟩
  | cfgToUser k c => exact ⟨_, rfl, (commands_cfgToUser k c).performs s⟩
  | cfgBlockDur k => exact ⟨_, rfl, (commands_cfgBlockDur k).performs s⟩
  | cfgEq j k => exact ⟨_, rfl, (commands_cfgEq j k).performs s⟩
  | tsEnc sec ms => exact ⟨_, rfl, (commands_tsEnc sec ms).performs s⟩
  | tsDec w0 w1 w2 => exact ⟨_, rfl, (commands_tsDec w0 w1 w2).performs s⟩
  | profDec pb k => exact ⟨_, rfl, (commands_profDec pb k).performs s⟩
  | rdreq addr count => exact ⟨_, rfl, opens_performs (opRdreq_opens addr count) s⟩
  | rdrsp slave payload crc => exact ⟨_, rfl, s.deliver_performs _⟩
  | wrreq addr v => exact ⟨_, rfl, opens_performs (opWrreq_opens addr v) s⟩
  | wrack slave addr count crc => exact ⟨_, rfl, s.deliver_performs _⟩
  | wrerr slave errFunc payload => exact ⟨_, rfl, s.deliver_performs _⟩
  | wrCfg k a => exact ⟨_, rfl, (commands_wrCfg k a).performs s⟩
  | rdCfg k a => exact ⟨_, rfl, (commands_rdCfg k a).performs s⟩
  | rdProf k a => exact ⟨_, rfl, (commands_rdProf k a).performs s⟩

theorem exec_follows {i : Instr} {s t : State} (h : exec i s = .next t) : s.Follows (writes i) t := by
  obtain ⟨u, hu, performs⟩ := exec_performs i s
  obtain rfl : u = t := by simpa [hu] using h
  exact performs.1

theorem exec_of_crcr_mem_writes {i : Instr} (h : .crcr ∈ writes i) : i = .crcInit ∨ ∃ b, i = .crcUpdate b := by
  unfold writes at h
  split at h <;> simp_all

theorem exec_of_link_mem_writes {i : Instr} (h : .link ∈ writes i) : i = .linkOpen ∨ i = .linkClose := by
  unfold writes at h
  split at h <;> simp_all

/-- Settles O12: LINK is a guarded register, and two instructions write it. -/
theorem linkWriters : Obligations.LinkWriters := by
  intro i s t notOpen notClose h
  exact (exec_follows h).link fun mem => (exec_of_link_mem_writes mem).elim notOpen notClose

/-- Settles O13: CRCR is a guarded register, and two instructions write it. -/
theorem crcRegisterWriters : Obligations.CrcRegisterWriters := by
  intro i s t notInit notUpdate h
  exact (exec_follows h).crcr fun mem => (exec_of_crcr_mem_writes mem).elim notInit fun ⟨b, e⟩ => notUpdate b e

/-! ### The writes of the configuration register files and of the profile record -/

theorem ends_write {P Q : State → State → Prop} {f : State → State} (h : ∀ s, P s { f s with status := 0 }) :
    Ends P Q (do update f; succeed) :=
  ends_update (f := fun s => { f s with status := 0 }) h

/-- One slot in range has been loaded whole, and the operation succeeded. -/
abbrev State.Loads (k : Nat) (s t : State) : Prop :=
  ∃ h, k < s.nSlots ∧ t.hc = s.hc.set k ⟨true, h⟩ ∧ t.status = 0

/-- The same behind the slot test. -/
abbrev State.LoadsInRange (k : Nat) (s t : State) : Prop := k < s.nSlots → s.Loads k t

theorem State.Follows.loads {k : Nat} {s t u : State} (h : s.Follows [] t) (loads : t.Loads k u) : s.Loads k u := by
  have hc : t.hc = s.hc := h.hc (by simp)
  simpa only [State.Loads, State.nSlots, hc] using loads

theorem State.Follows.loadsInRange {k : Nat} {s t u : State} (h : s.Follows [] t) (loads : t.LoadsInRange k u) :
    s.LoadsInRange k u := by
  have hc : t.hc = s.hc := h.hc (by simp)
  simpa only [State.LoadsInRange, State.Loads, State.nSlots, hc] using loads

theorem checkSlot_bind_loads {k : Nat} {f : Unit → Engine Unit}
    (h : Ends (State.LoadsInRange k) (State.Settles []) (f ())) :
    Ends (State.Loads k) (State.Settles []) (checkSlot k >>= f) := by
  intro s
  rw [checkSlot_bind]
  by_cases inRange : k < s.nSlots
  · rw [if_pos inRange]
    exact ⟨fun a t e => (h s).1 a t e inRange, (h s).2⟩
  · rw [if_neg inRange]
    exact ends_raise (fun s => s.settles_raise .badSlot k 0) s

theorem write_loadSlot_loads (k : Nat) (h : HwConfig) :
    Ends (State.LoadsInRange k) (State.Settles []) (do update fun s => s.loadSlot k h; succeed) :=
  ends_write fun _ inRange => ⟨h, inRange, rfl, rfl⟩

theorem opCfgFromRegs_loads (k : Nat) (l : List Word) :
    Ends (State.Loads k) (State.Settles []) (opCfgFromRegs k l) := by
  refine checkSlot_bind_loads ?_
  cases HwConfig.ofRegs l with
  | none => exact ends_raise fun s => s.settles_raise _ _ _
  | some h => exact write_loadSlot_loads k h

theorem opCfgFromUser_loads (k : Nat) (a : AcousticConfig) (c : Rat) (blind : Option BlindLimits) :
    Ends (State.Loads k) (State.Settles []) (opCfgFromUser k a c blind) := by
  have frame := fun s t u : State => State.Follows.loadsInRange (k := k) (s := s) (t := t) (u := u)
  exact checkSlot_bind_loads ((commands_inspect _).transacts.bind_of frame fun cfg =>
    (transacts_require _ _ _ _).bind_of frame fun _ => (transacts_require _ _ _ _).bind_of frame fun _ =>
      write_loadSlot_loads k _)

theorem opRdCfg_loads (k : Nat) (a : Word) : Ends (State.Loads k) (State.Settles []) (opRdCfg k a) := by
  have frame := fun s t u : State => State.Follows.loads (k := k) (s := s) (t := t) (u := u)
  exact (commands_of_settles (opRdW_settles a 17 none)).transacts.bind_of frame fun _ =>
    (commands_inspect _).transacts.bind_of frame fun l => opCfgFromRegs_loads k l

/-- The profile record has been written, and the operation succeeded. -/
abbrev State.Decoded (t : State) : Prop := t.prv = true ∧ t.status = 0

theorem Transacts.bind_decodes {α : Type} {x : Engine α} {f : α → Engine Unit} (hx : Transacts [] x)
    (hf : ∀ a, Ends (fun _ t => t.Decoded) (State.Settles []) (f a)) :
    Ends (fun _ t => t.Decoded) (State.Settles []) (x >>= f) :=
  hx.bind_of (fun _ _ _ _ => id) hf

theorem opProfDec_decodes (pb : List Byte) (k : Nat) :
    Ends (fun _ t => t.Decoded) (State.Settles []) (opProfDec pb k) :=
  (commands_checkSlot k).transacts.bind_decodes fun _ => (commands_checkLoaded k).transacts.bind_decodes fun _ =>
    (commands_inspect _).transacts.bind_decodes fun _ => (transacts_require _ _ _ _).bind_decodes fun _ =>
      (transacts_require _ _ _ _).bind_decodes fun _ => ends_write fun _ => ⟨rfl, rfl⟩

theorem opRdProf_decodes (k : Nat) (a : Word) : Ends (fun _ t => t.Decoded) (State.Settles []) (opRdProf k a) := by
  have draw : Transacts [] (update fun s => { s with draws := s.draws + 1 }) := transacts_update fun _ => .of_same rfl id
  exact (commands_checkSlot k).transacts.bind_decodes fun _ => (commands_checkLoaded k).transacts.bind_decodes fun _ =>
    (commands_inspect _).transacts.bind_decodes fun total => draw.bind_decodes fun _ =>
      (commands_of_settles (opRdBuf_settles a total none)).transacts.bind_decodes fun _ =>
        (commands_inspect _).transacts.bind_decodes fun pb => opProfDec_decodes pb k

theorem hc_of_loads {k : Nat} {op : Engine Unit} (h : Ends (State.Loads k) (State.Settles []) op) (s : State) :
    (runOp op s).hc = s.hc ∨ s.Loads k (runOp op s) :=
  (ends_runOp h s).elim .inr fun settles => .inl (settles.1.hc (by simp))

theorem pr_of_decodes {op : Engine Unit} (h : Ends (fun _ t => t.Decoded) (State.Settles []) op) (s : State) :
    ((runOp op s).pr = s.pr ∧ (runOp op s).prv = s.prv) ∨ (runOp op s).Decoded :=
  (ends_runOp h s).elim .inr fun settles => .inl (settles.1.pr (by simp))

theorem exec_of_hc_mem_writes {i : Instr} (h : .hc ∈ writes i) :
    (∃ k a c blind, i = .cfgFromUser k a c blind) ∨ (∃ k l, i = .cfgFromRegs k l) ∨ ∃ k a, i = .rdCfg k a := by
  unfold writes at h
  split at h <;> simp_all

theorem exec_of_pr_mem_writes {i : Instr} (h : .pr ∈ writes i) :
    (∃ pb k, i = .profDec pb k) ∨ ∃ k a, i = .rdProf k a := by
  unfold writes at h
  split at h <;> simp_all

/-- Settles O14: an instruction that may write `HC` loads its slot or ends in a raise. -/
theorem configWriters : Obligations.ConfigWriters := by
  intro i s t h
  by_cases mem : .hc ∈ writes i
  · rcases exec_of_hc_mem_writes mem with ⟨k, a, c, blind, rfl⟩ | ⟨k, l, rfl⟩ | ⟨k, a, rfl⟩
    · obtain rfl := Host.Outcome.next.inj h
      exact (hc_of_loads (opCfgFromUser_loads k a c blind) s).imp_right fun ⟨regs, loads⟩ => ⟨k, regs, rfl, loads⟩
    · obtain rfl := Host.Outcome.next.inj h
      exact (hc_of_loads (opCfgFromRegs_loads k l) s).imp_right fun ⟨regs, loads⟩ => ⟨k, regs, rfl, loads⟩
    · obtain rfl := Host.Outcome.next.inj h
      exact (hc_of_loads (opRdCfg_loads k a) s).imp_right fun ⟨regs, loads⟩ => ⟨k, regs, rfl, loads⟩
  · exact .inl ((exec_follows h).hc mem)

/-- Settles O15: an instruction that may write `PR` decodes a block or ends in a raise. -/
theorem profileWriters : Obligations.ProfileWriters := by
  intro i s t h
  by_cases mem : .pr ∈ writes i
  · rcases exec_of_pr_mem_writes mem with ⟨pb, k, rfl⟩ | ⟨k, a, rfl⟩
    · obtain rfl := Host.Outcome.next.inj h
      exact (pr_of_decodes (opProfDec_decodes pb k) s).imp_right fun decoded => ⟨.inl ⟨pb, k, rfl⟩, decoded⟩
    · obtain rfl := Host.Outcome.next.inj h
      exact (pr_of_decodes (opRdProf_decodes k a) s).imp_right fun decoded => ⟨.inr ⟨k, a, rfl⟩, decoded⟩
  · exact .inl ((exec_follows h).pr mem)

/-! ### Steps -/

/-- The invariant, apart from the sequencer: which of the two phases the engine is in. -/
theorem State.inv_iff (s : State) : s.Inv ↔ s.DataOk ∧ s.Sequenced := by
  constructor
  · intro ⟨⟨idle, opened⟩, stores, ⟨rl, rdcnt, rxacc, cleared⟩, status⟩
    refine ⟨⟨stores, ⟨rl, rdcnt, rxacc⟩, status⟩, ?_⟩
    cases busy : s.busy with
    | false =>
      have closed : s.pend = none := by simpa [busy] using opened
      exact .inl ⟨idle.2 busy, busy, closed⟩
    | true =>
      have pend : s.pend.isSome = true := opened.2 busy
      exact .inr ⟨by simpa [busy] using idle, busy, pend, cleared pend⟩
  · intro ⟨⟨stores, ⟨rl, rdcnt, rxacc⟩, status⟩, phase⟩
    rcases phase with ⟨seq, busy, pend⟩ | ⟨seq, busy, pend, cleared⟩
    · exact ⟨⟨iff_of_true seq busy, by simp [pend, busy]⟩, stores, ⟨rl, rdcnt, rxacc, by simp [pend]⟩, status⟩
    · exact ⟨⟨by simp [seq, busy], iff_of_true pend busy⟩, stores, ⟨rl, rdcnt, rxacc, fun _ => cleared⟩, status⟩

theorem decodeReadReply_ok {bytes : List Byte} {i : Instr} (h : decodeReadReply bytes = .ok i) :
    ∃ slave payload crc, i = .rdrsp slave payload crc := by
  unfold decodeReadReply at h
  repeat' split at h
  all_goals cases h
  exact ⟨_, _, _, rfl⟩

theorem decodeWriteReply_ok {bytes : List Byte} {i : Instr} (h : decodeWriteReply bytes = .ok i) :
    (∃ slave addr count crc, i = .wrack slave addr count crc) ∨ ∃ slave fn payload, i = .wrerr slave fn payload := by
  unfold decodeWriteReply at h
  repeat' split at h
  all_goals cases h
  · exact .inl ⟨_, _, _, _, rfl⟩
  · exact .inr ⟨_, _, _, rfl⟩

/-- Bytes of the device are put on the line, whether or not they form a response. -/
theorem takePacket_fromDevice {p : Packet} (h : Packet.fromDevice p = true) (s : State) :
    ∃ bytes, takePacket p s = .next (s.deliver bytes) := by
  obtain ⟨chan, bytes⟩ := p
  unfold takePacket
  cases decoded : decode s.cfg.slaveAddr ⟨chan, bytes⟩ with
  | error e => exact ⟨bytes, if_pos h⟩
  | ok i =>
    cases chan with
    | command | pseudo | request => cases h
    | readReply =>
      obtain ⟨slave, payload, crc, rfl⟩ := decodeReadReply_ok decoded
      exact ⟨_, rfl⟩
    | writeReply =>
      obtain ⟨slave, addr, count, crc, rfl⟩ | ⟨slave, fn, payload, rfl⟩ := decodeWriteReply_ok decoded
      · exact ⟨_, rfl⟩
      · exact ⟨_, rfl⟩

/-- A packet the engine takes is refused, or it leaves a state that follows and keeps the sequencer in its two phases. -/
theorem takePacket_cases (p : Packet) (s : State) (takes : Packet.fromDevice p = true ∨ s.busy = false) :
    (∃ r, takePacket p s = .refused r) ∨
    ∃ W t, takePacket p s = .next t ∧ s.Follows W t ∧ (s.Sequenced → t.Sequenced) := by
  rcases takes with device | idle
  · obtain ⟨bytes, ht⟩ := takePacket_fromDevice device s
    exact .inr ⟨[], _, ht, s.deliver_follows bytes, s.deliver_sequenced bytes⟩
  · have phase {W : List GuardedReg} {t : State} (h : s.Performs W t) (sequenced : s.Sequenced) : t.Sequenced :=
      h.2 (sequenced.resolve_right fun ⟨_, busy, _⟩ => absurd busy (by simp [idle]))
    unfold takePacket
    split
    case h_1 i _ =>
      obtain ⟨t, ht, performs⟩ := exec_performs i s
      exact .inr ⟨writes i, t, ht, performs.1, phase performs⟩
    case h_2 e _ =>
      unfold execUndecodable
      split
      · exact .inr ⟨[], _, rfl, s.deliver_follows p.bytes, s.deliver_sequenced p.bytes⟩
      · split
        · exact .inr ⟨[], _, rfl, (s.settles_raise _ _ _).1, fun _ => .inl ⟨rfl, rfl, rfl⟩⟩
        all_goals exact .inl ⟨_, rfl⟩

/-- An idle engine waits, an open transaction is completed; no state in the two phases is stuck. -/
theorem engineMove_cases (s : State) :
    (¬ s.Sequenced ∧ engineMove s = .fault .engineStuck) ∨
    ∃ W t, engineMove s = .next t ∧ s.Follows W t ∧ (s.Sequenced → t.Sequenced) := by
  unfold engineMove
  split
  next p _ =>
    have settles : s.Settles [] (s.completePending p) := s.completePending_settles p
    exact .inr ⟨[], _, rfl, settles.1, fun _ => .inl settles.2⟩
  next pend =>
    split
    next busy => exact .inl ⟨by simp [State.Sequenced, busy, pend], rfl⟩
    next => exact .inr ⟨[], s, rfl, .refl s, id⟩

/-- All that a step can do: the reset event, a stop for a packet that is no instruction, the stop of an engine that is
stuck, or a next state that follows and keeps the sequencer in its two phases. -/
theorem step_cases (s : State) :
    (∃ rest, s.inbox = .reset :: rest ∧ step s = .next { s with inbox := rest }.afterReset) ∨
    (∃ r, step s = .refused r) ∨
    (¬ s.Sequenced ∧ step s = .fault .engineStuck) ∨
    ∃ W t, step s = .next t ∧ s.Follows W t ∧ (s.Sequenced → t.Sequenced) := by
  unfold step
  split
  next => exact .inr (.inr (engineMove_cases s))
  next rest inbox => exact .inl ⟨rest, inbox, rfl⟩
  next p rest inbox =>
    split
    next => exact .inr (.inr (engineMove_cases s))
    next takes =>
      have taken {W : List GuardedReg} : s.Follows W { s with inbox := rest } := .of_same rfl id
      have admitted : Packet.fromDevice p = true ∨ s.busy = false := by
        rcases s.busy.eq_false_or_eq_true with busy | idle
        · exact .inl (by simpa [busy] using takes)
        · exact .inr idle
      rcases takePacket_cases p { s with inbox := rest } admitted with refused | ⟨W, t, ht, follows, phase⟩
      · exact .inr (.inl refused)
      · exact .inr (.inr (.inr ⟨W, t, ht, taken.trans follows, phase⟩))

theorem State.afterReset_inv (s : State) : s.afterReset.Inv :=
  s.afterReset.inv_iff.2
    ⟨⟨⟨rfl, rfl, nofun, nofun⟩, ⟨rfl, Nat.zero_le _, Nat.zero_le _⟩, .inl rfl⟩, .inl ⟨rfl, rfl, rfl⟩⟩

theorem step_follows {s t : State} (noReset : ∀ rest, s.inbox ≠ .reset :: rest) (h : step s = .next t) :
    ∃ W, s.Follows W t := by
  rcases step_cases s with ⟨rest, inbox, _⟩ | ⟨r, e⟩ | ⟨_, e⟩ | ⟨W, u, e, follows, _⟩
  · exact absurd inbox (noReset rest)
  · simp [e] at h
  · simp [e] at h
  · obtain rfl : u = t := by simpa [e] using h
    exact ⟨W, follows⟩

/-- Settles O9: only the engine that is stuck stops in a fault, and a step keeps both parts of the invariant. -/
theorem invStep : Obligations.InvStep := by
  intro s inv
  obtain ⟨data, sequenced⟩ := s.inv_iff.1 inv
  rcases step_cases s with ⟨rest, _, e⟩ | ⟨r, e⟩ | ⟨stuck, _⟩ | ⟨W, u, e, follows, phase⟩
  · refine ⟨fun r => by simp [e], fun t ht => ?_⟩
    obtain rfl : State.afterReset _ = t := by simpa [e] using ht
    exact State.afterReset_inv _
  · exact ⟨fun r => by simp [e], fun t ht => by simp [e] at ht⟩
  · exact absurd sequenced stuck
  · refine ⟨fun r => by simp [e], fun t ht => ?_⟩
    obtain rfl : u = t := by simpa [e] using ht
    exact u.inv_iff.2 ⟨follows.data data, phase sequenced⟩

/-- Settles O10: FSTICKY is one of the registers `State.Follows` speaks of. -/
theorem stickyOnlyGains : Obligations.StickyOnlyGains := by
  intro s t noReset h
  obtain ⟨W, follows⟩ := step_follows noReset h
  exact follows.sticky

/-- Settles O11: reset keeps the parameters and the number of slots, and so does every other step. -/
theorem parametersFixed : Obligations.ParametersFixed := by
  intro s t h
  by_cases reset : ∃ rest, s.inbox = .reset :: rest
  · obtain ⟨rest, inbox⟩ := reset
    rw [step, inbox] at h
    obtain rfl := Host.Outcome.next.inj h
    exact ⟨rfl, List.length_replicate⟩
  · obtain ⟨W, follows⟩ := step_follows (by simpa using reset) h
    exact ⟨follows.cfg, follows.slots⟩

/-! ### The reset state -/

/-- Settles O8: the invariant holds after the reset event, and `State.reset` is what it leaves. -/
theorem invReset : Obligations.InvReset :=
  State.afterReset_inv State.reset

/-- Settles O1: every value of the reset table, read off the definition. -/
theorem resetState : Obligations.ResetState := by
  refine ⟨rfl, fun sl mem => ?_, ?_⟩
  · rw [List.eq_of_mem_replicate mem]
  · and_intros <;> rfl

end Sys2Proof.Machine

/-! A request frame that `Tx` does not take whole (20_memory.md R62, 41_transport.md R164): the fault of `Tx`, carried
out through the request half of a transaction to the whole instruction. -/

namespace Sys2Proof.Machine

/-! ### The meaning of the transport instructions -/

theorem exec_rdW (addr count : Word) (tmo : Option Rat) (s : State) :
    exec (.rdW addr count tmo) s = .next (runOp (opRdW addr count tmo) s) := rfl

theorem exec_wrW (addr : Word) (v : List Word) (tmo : Option Rat) (s : State) :
    exec (.wrW addr v tmo) s = .next (runOp (opWrW addr v tmo) s) := rfl

theorem exec_wrBuf (addr : Word) (v : List Word) (tmo : Option Rat) (s : State) :
    exec (.wrBuf addr v tmo) s = .next (runOp (opWrW addr v tmo) s) := rfl

/-! ### `Tx` answers io_error -/

theorem transmit_ioError {s : State} {n : Nat} (answer : s.txAnswer = .ioError n) (frame : List Byte) :
    transmit frame s =
      .error () (({ s.txDrawn with sent := s.sent ++ frame.take n } : State).raise .writeFail 0 0) := by
  rcases transmit_cases frame s with ⟨taken, _⟩ | ⟨m, cut, faults⟩
  · simp [answer] at taken
  · obtain rfl : n = m := by simpa [answer] using cut
    exact faults

/-- The first transaction of an operation, up to its request: `SEGCNT` counts it, and nothing is received. -/
theorem start_sendRequest_ioError {s : State} {n : Nat} (answer : s.txAnswer = .ioError n) (body : Byte → List Byte)
    (p : Pending) :
    (do
      startTransaction
      let slave ← inspect fun s => s.cfg.slaveAddr
      sendRequest (body slave) p : Engine Unit) { s with segcnt := 0 } =
      .error () ((s.exchanged ((sealFrame (body s.cfg.slaveAddr)).take n) [] s.env.rx).raise .writeFail 0 0) := by
  have cut := transmit_ioError (s := { s with segcnt := 0 + 1, busy := true, rxacc := [], seq := .tx }) answer
    (sealFrame (body s.cfg.slaveAddr))
  simp only [startTransaction_bind, inspect_bind, sendRequest, update_bind]
  rw [engine_bind_error cut]
  simp [State.exchanged, State.raise]

/-- The exchange neither reads nor writes `RDCNT`. -/
theorem State.exchanged_of_writeRdcnt (s : State) (c : BitVec 17) (frame got : List Byte) (left : List RxStep) :
    ({ s with rdcnt := c } : State).exchanged frame got left = { s.exchanged frame got left with rdcnt := c } := by
  simp [State.exchanged]

theorem beginRead_ioError {s : State} {addr count : Word} {n : Nat} (bound : Rat)
    (fits : 1 ≤ count.toNat ∧ count.toNat ≤ 125) (range : addr.toNat + count.toNat ≤ 65536) (link : s.link = true)
    (answer : s.txAnswer = .ioError n) :
    beginRead addr count bound s =
      .error () (({ s.exchanged ((readRequest s.cfg.slaveAddr addr count).take n) [] s.env.rx with rdcnt := 0 } :
        State).raise .writeFail 0 0) := by
  simp only [beginRead, update_bind, checkCount_bind, checkAddr_bind, checkLink_bind, maxRd, if_pos fits, if_pos range,
    if_pos link]
  rw [← State.exchanged_of_writeRdcnt]
  exact start_sendRequest_ioError (s := { s with rdcnt := 0 }) answer (readBody · addr count) ⟨.read count, bound⟩

theorem beginWrite_ioError {s : State} {addr : Word} {v : List Word} {n : Nat} (bound : Rat)
    (fits : 1 ≤ v.length ∧ v.length ≤ 123) (range : addr.toNat + v.length ≤ 65536) (link : s.link = true)
    (answer : s.txAnswer = .ioError n) :
    beginWrite addr v bound s =
      .error () ((s.exchanged ((writeRequest s.cfg.slaveAddr addr v).take n) [] s.env.rx).raise .writeFail 0 0) := by
  simp only [beginWrite, update_bind, checkWrite_bind, checkLink_bind, if_pos fits, if_pos range, if_pos link]
  exact start_sendRequest_ioError answer (writeBody · addr v) ⟨.write, bound⟩

/-! ### Whole instructions -/

/-- A read whose request half faults ends there, with the effects of a failed read. -/
theorem runOp_opRdW_of_beginRead_error {s t : State} {addr count : Word} {tmo : Option Rat} {e : Unit}
    (h : beginRead addr count (s.bound tmo) s = .error e t) : runOp (opRdW addr count tmo) s = t.readFailed := by
  refine runOp_error (e := e) ?_
  rw [opRdW, inspect_bind]
  exact onFault_error (engine_bind_error h)

/-- A write whose request half faults ends there. -/
theorem runOp_opWrW_of_beginWrite_error {s t : State} {addr : Word} {v : List Word} {tmo : Option Rat} {e : Unit}
    (h : beginWrite addr v (s.bound tmo) s = .error e t) : runOp (opWrW addr v tmo) s = t := by
  refine runOp_error (e := e) ?_
  rw [opWrW, inspect_bind]
  exact engine_bind_error h

/-- Settles O23: past the checks, the fault of `Tx` ends the request half, and so the instruction. -/
theorem transmitFault : Obligations.TransmitFault := by
  intro s addr count v tmo n link answer
  constructor
  · intro least most range
    rw [exec_rdW, runOp_opRdW_of_beginRead_error (beginRead_ioError _ ⟨least, most⟩ range link answer)]
  · intro least most range i write
    have ended := runOp_opWrW_of_beginWrite_error (tmo := tmo)
      (beginWrite_ioError _ ⟨least, most⟩ range link answer)
    rcases write with rfl | rfl
    · rw [exec_wrW, ended]
    · rw [exec_wrBuf, ended]

end Sys2Proof.Machine

/-! The encoder and the decoder (30_encoding.md R92 to R104): each channel's decoder reads back what the encoder writes
on it. A command rests on the reader of its operand record, a frame on its fixed layout. -/

namespace Sys2Proof

open Machine

/-! ### Commands and pseudo-operations -/

theorem decode_commandPacket {slave op : Byte} {p : Reader Instr} {bytes : List Byte} {i : Instr}
    (assigned : operandReader op.toNat = some p) (reads : Reads p bytes i) :
    decode slave (commandPacket op bytes) = .ok i :=
  decodeCommand_reads assigned reads

/-- Two operands one after the other, the shape of most operand records. -/
theorem reads_map₂ {α β γ : Type} {p : Reader α} {q : Reader β} {f : α → β → γ} {a b : List Byte} {x : α} {y : β}
    (hp : Reads p a x) (hq : Reads q b y) :
    Reads (do let u ← p; return f u (← q)) (a ++ b) (f x y) :=
  reads_bind hp (reads_map hq)

theorem reads_map₃ {α β γ δ : Type} {p : Reader α} {q : Reader β} {r : Reader γ} {f : α → β → γ → δ}
    {a b c : List Byte} {x : α} {y : β} {z : γ} (hp : Reads p a x) (hq : Reads q b y) (hr : Reads r c z) :
    Reads (do let u ← p; let v ← q; return f u v (← r)) (a ++ b ++ c) (f x y z) := by
  rw [List.append_assoc]
  exact reads_bind hp (reads_map₂ hq hr)

theorem reads_gTable (n : BitVec 15) (ci cs bi bs : Rat) :
    Reads (do
      let n ← readBits 15
      let ci ← readRat
      let cs ← readRat
      let bi ← readRat
      return Instr.gTable n ci cs bi (← readRat))
      (natBytes n.toNat ++ ratBytes ci ++ ratBytes cs ++ ratBytes bi ++ ratBytes bs) (.gTable n ci cs bi bs) := by
  simp only [List.append_assoc]
  exact reads_bind (reads_bits n) (reads_bind (reads_rat ci) (by
    rw [← List.append_assoc]; exact reads_map₃ (reads_rat cs) (reads_rat bi) (reads_rat bs)))

theorem reads_cfgFromUser (s : Nat) (a : AcousticConfig) (c : Rat) (blind : Option BlindLimits) :
    Reads (do
      let s ← readNat
      let a ← readAcoustic
      let c ← readRat
      return Instr.cfgFromUser s a c (← readOption readBlind))
      (natBytes s ++ acousticBytes a ++ ratBytes c ++ blindBytes blind) (.cfgFromUser s a c blind) := by
  rw [List.append_assoc, List.append_assoc, ← List.append_assoc (acousticBytes a)]
  exact reads_bind (reads_nat s) (reads_map₃ (reads_acoustic a) (reads_rat c) (reads_blind blind))

theorem reads_slotAddr (s : Nat) (a : Word) : Reads readSlotAddr (natBytes s ++ be16 a) (s, a) :=
  reads_map₂ (reads_nat s) (reads_word a)

/-- The three tags of a pseudo-operation. -/
theorem decodePseudo_slotAddr (tag : Byte) (s : Nat) (a : Word) :
    decodePseudo (tag :: (natBytes s ++ be16 a)) =
      if tag = 0 then .ok (.wrCfg s a) else if tag = 1 then .ok (.rdCfg s a) else if tag = 2 then .ok (.rdProf s a)
      else .error .badPseudo := by
  have read := reads_slotAddr s a []
  rw [List.append_nil] at read
  simp only [decodePseudo, read]

/-! ### Request frames -/

theorem decodeRequest_readRequest {slave : Byte} {addr count : Word} (h : (Instr.rdreq addr count).wellFormed = true) :
    decodeRequest slave (readRequest slave addr count) = .ok (.rdreq addr count) := by
  have layout : readRequest slave addr count =
      slave :: fcRead :: hi8 addr :: lo8 addr :: hi8 count :: lo8 count :: le16 (crc16 (readBody slave addr count)) :=
    rfl
  rw [decodeRequest.eq_def, layout]
  simp only [ofOctets_hi8_lo8, h, ← layout, beq_self_eq_true, Bool.and_self, if_true]

/-- The function byte tells the two request frames apart. -/
theorem writeRequest_ne_readRequest (slave : Byte) (addr count : Word) (v : List Word) :
    writeRequest slave addr v ≠ readRequest slave addr count := by
  intro same
  have second : fcWrite = fcRead := congrArg (byteAt · 1) same
  exact absurd second (by decide)

theorem decodeRequest_writeRequest {slave : Byte} {addr : Word} {v : List Word}
    (h : (Instr.wrreq addr v).wellFormed = true) :
    decodeRequest slave (writeRequest slave addr v) = .ok (.wrreq addr v) := by
  have layout : writeRequest slave addr v =
      slave :: fcWrite :: hi8 addr :: lo8 addr :: hi8 (BitVec.ofNat 16 v.length) :: lo8 (BitVec.ofNat 16 v.length) ::
        BitVec.ofNat 8 (2 * v.length) :: (wordsToBytes v ++ le16 (crc16 (writeBody slave addr v))) := by
    simp [writeRequest, sealFrame, writeBody, be16]
  obtain ⟨-, most, -⟩ : 1 ≤ v.length ∧ v.length ≤ 123 ∧ addrFits addr v.length := of_decide_eq_true h
  have count : (BitVec.ofNat 16 v.length).toNat = v.length := by simp; omega
  have payload : (wordsToBytes v ++ le16 (crc16 (writeBody slave addr v))).take (2 * v.length) = wordsToBytes v :=
    List.take_left' (wordsToBytes_length v)
  have other (c : Word) : (writeRequest slave addr v == readRequest slave addr c) = false :=
    beq_eq_false_iff_ne.2 (writeRequest_ne_readRequest slave addr c v)
  rw [decodeRequest.eq_def, layout]
  simp only [ofOctets_hi8_lo8, count, List.drop_succ_cons, List.drop_zero, payload, bytesToWords_wordsToBytes, ← layout,
    other, h, beq_self_eq_true, Bool.and_self, Bool.and_false, Bool.false_eq_true, if_false, if_true]

/-! ### Response frames -/

theorem decodeReadReply_readResponse (slave : Byte) {payload : List Byte} (crc : Word) (h : payload.length ≤ 255) :
    decodeReadReply (readResponse slave payload crc) = .ok (.rdrsp slave payload crc) := by
  have layout : readResponse slave payload crc =
      slave :: fcRead :: BitVec.ofNat 8 payload.length :: (payload ++ [lo8 crc, hi8 crc]) := rfl
  have count : (BitVec.ofNat 8 payload.length).toNat = payload.length := by simp; omega
  simp only [layout, decodeReadReply, count, List.drop_left, List.take_left, ofOctets_hi8_lo8, if_true]

theorem decodeWriteReply_writeAck (slave : Byte) (addr count crc : Word) :
    decodeWriteReply (writeAck slave addr count crc) = .ok (.wrack slave addr count crc) := by
  simp [decodeWriteReply, writeAck, be16, le16]

theorem decodeWriteReply_writeError (slave : Byte) {fn : Byte} {payload : List Byte} (failure : fn ≠ fcWrite)
    (h : payload.length ≤ 255) :
    decodeWriteReply (writeError slave fn payload) = .ok (.wrerr slave fn payload) := by
  have layout : writeError slave fn payload = slave :: fn :: BitVec.ofNat 8 payload.length :: payload := rfl
  have count : (BitVec.ofNat 8 payload.length).toNat = payload.length := by simp; omega
  simp only [layout, decodeWriteReply, if_neg failure, count, if_true]

/-! ### Every instruction -/

/-- Settles O7: an operand record is read back by its reader, a pseudo-operation by its tag, a frame by its layout. -/
theorem decodeEncodeAgree : Obligations.DecodeEncodeAgree := by
  intro slave i wf
  cases i with
  | crcCompute d => exact decode_commandPacket rfl (reads_map (reads_byteList d))
  | crcInit => exact decode_commandPacket rfl (reads_pure _)
  | crcUpdate b => exact decode_commandPacket rfl (reads_map (reads_byte b))
  | crcRead => exact decode_commandPacket rfl (reads_pure _)
  | crcCheck f => exact decode_commandPacket rfl (reads_map (reads_byteList f))
  | rdW addr count tmo =>
    exact decode_commandPacket rfl (reads_map₃ (reads_word addr) (reads_word count) (reads_tmo tmo))
  | wrW addr v tmo =>
    exact decode_commandPacket rfl (reads_map₃ (reads_word addr) (reads_wordList v) (reads_tmo tmo))
  | rdBuf addr total tmo =>
    exact decode_commandPacket rfl (reads_map₃ (reads_word addr) (reads_bits total) (reads_tmo tmo))
  | wrBuf addr v tmo =>
    exact decode_commandPacket rfl (reads_map₃ (reads_word addr) (reads_wordList v) (reads_tmo tmo))
  | csrRd r => exact decode_commandPacket rfl (reads_map (reads_byte r))
  | csrWr r value => exact decode_commandPacket rfl (reads_map₂ (reads_byte r) (reads_rat value))
  | linkOpen => exact decode_commandPacket rfl (reads_pure _)
  | linkClose => exact decode_commandPacket rfl (reads_pure _)
  | castS16 x => exact decode_commandPacket rfl (reads_map (reads_rat x))
  | castU16 x => exact decode_commandPacket rfl (reads_map (reads_rat x))
  | gS2C a1 r => exact decode_commandPacket rfl (reads_map₂ (reads_rat a1) (reads_rat r))
  | gC2S code r => exact decode_commandPacket rfl (reads_map₂ (reads_rat code) (reads_rat r))
  | gI2C a0 => exact decode_commandPacket rfl (reads_map (reads_rat a0))
  | gC2I code => exact decode_commandPacket rfl (reads_map (reads_rat code))
  | gTable n ci cs bi bs => exact decode_commandPacket rfl (reads_gTable n ci cs bi bs)
  | cfgFromUser s a c blind => exact decode_commandPacket rfl (reads_cfgFromUser s a c blind)
  | cfgFromRegs s l => exact decode_commandPacket rfl (reads_map₂ (reads_nat s) (reads_wordList l))
  | cfgToRegs s => exact decode_commandPacket rfl (reads_map (reads_nat s))
  | cfgToUser s c => exact decode_commandPacket rfl (reads_map₂ (reads_nat s) (reads_rat c))
  | cfgBlockDur s => exact decode_commandPacket rfl (reads_map (reads_nat s))
  | cfgEq s t => exact decode_commandPacket rfl (reads_map₂ (reads_nat s) (reads_nat t))
  | tsEnc sec ms => exact decode_commandPacket rfl (reads_map₂ (reads_int sec) (reads_int ms))
  | tsDec w0 w1 w2 => exact decode_commandPacket rfl (reads_map₃ (reads_word w0) (reads_word w1) (reads_word w2))
  | profDec pb s => exact decode_commandPacket rfl (reads_map₂ (reads_byteList pb) (reads_nat s))
  | rdreq addr count => exact decodeRequest_readRequest wf
  | rdrsp sl payload crc => exact decodeReadReply_readResponse sl crc (of_decide_eq_true wf)
  | wrreq addr v => exact decodeRequest_writeRequest wf
  | wrack sl addr count crc => exact decodeWriteReply_writeAck sl addr count crc
  | wrerr sl fn payload =>
    obtain ⟨failure, fits⟩ := of_decide_eq_true wf
    exact decodeWriteReply_writeError sl failure fits
  | wrCfg s a => exact decodePseudo_slotAddr 0 s a
  | rdCfg s a => exact decodePseudo_slotAddr 1 s a
  | rdProf s a => exact decodePseudo_slotAddr 2 s a

/-! ### Packets written out by hand, and OP codes without a meaning -/

/-- Settles O6: each packet is what the encoder writes for its instruction, so the decoder gives that back. -/
theorem handWrittenPackets : Obligations.HandWrittenPackets := by
  have decodes {i : Instr} {p : Packet} (wf : i.WellFormed) (same : encode 0x04 i = p) : decode 0x04 p = .ok i :=
    same ▸ decodeEncodeAgree 0x04 i wf
  have readSeal : crc16 (readBody 0x04 0 1) = 0x5F84 := by decide +kernel
  have writeSeal : crc16 (writeBody 0x04 0xFFFD [2]) = 0x2302 := by decide +kernel
  have readFrame : readRequest 0x04 0 1 = [0x04, 0x03, 0x00, 0x00, 0x00, 0x01, 0x84, 0x5F] := by
    rw [readRequest, sealFrame, readSeal]; rfl
  have writeFrame : writeRequest 0x04 0xFFFD [2] =
      [0x04, 0x10, 0xFF, 0xFD, 0x00, 0x01, 0x02, 0x00, 0x02, 0x02, 0x23] := by
    rw [writeRequest, sealFrame, writeSeal]; rfl
  exact ⟨decodes rfl (congrArg (Packet.mk .request) readFrame), decodes rfl rfl,
    decodes rfl (congrArg (Packet.mk .request) writeFrame), decodes rfl rfl, decodes rfl rfl, decodes rfl rfl,
    decodes rfl rfl⟩

/-- The OP codes of 30_encoding.md R100. -/
theorem operandReader_eq_none {op : Nat}
    (h : op ∉ [0x00, 0x01, 0x02, 0x03, 0x04, 0x10, 0x11, 0x12, 0x13, 0x1C, 0x1D, 0x1E, 0x1F, 0x20, 0x21, 0x30, 0x31,
      0x32, 0x33, 0x34, 0x40, 0x41, 0x42, 0x43, 0x44, 0x45, 0x50, 0x51, 0x60]) : operandReader op = none := by
  unfold operandReader
  split
  case h_30 => rfl
  all_goals exact absurd (by decide) h

theorem decodeCommand_badOp {op : Byte} (h : operandReader op.toNat = none) (bs : List Byte) :
    decodeCommand (op :: bs) = .error (.badOp op) := by
  simp only [decodeCommand, h]

/-- Settles O5: the OP byte has no operand reader, and an idle engine answers with the raise alone. -/
theorem unassignedOpRefused : Obligations.UnassignedOpRefused := by
  intro s op bs rest inbox busy seq pend unassigned
  have undecodable : decode s.cfg.slaveAddr ⟨.command, op :: bs⟩ = .error (.badOp op) :=
    decodeCommand_badOp (operandReader_eq_none unassigned) bs
  have info : BitVec.ofInt 32 (op.toNat : Int) = op.setWidth 32 := by
    apply BitVec.eq_of_toNat_eq
    simp
  have answer : step s = .next (execBadOp op { s with inbox := rest }) := by
    simp only [step, inbox, busy, takePacket, undecodable]
    rfl
  rw [answer, execBadOp, State.raise, info, ← busy, ← seq, ← pend]
  rfl

end Sys2Proof

/-! The mode word of a configuration (30_encoding.md R113): its booleans bit by bit. -/

namespace Sys2Proof.Machine

theorem getLsbD_extractLsb'_zero {n k : Nat} (m : Word) (h : k < n) :
    (m.extractLsb' 0 n).getLsbD k = m.getLsbD k := by
  simp [h]

theorem getLsbD_iff_extractLsb'_one (m : Word) (k : Nat) : m.getLsbD k = true ↔ m.extractLsb' k 1 = 1 := by
  have field : (m.extractLsb' k 1).getLsbD 0 = m.getLsbD k := by simp
  have values : ∀ x : BitVec 1, x.getLsbD 0 = true ↔ x = 1 := by decide
  rw [← field, values]

theorem burstMode_both_iff (m : Word) : burstMode .both m = true ↔ m.extractLsb' 0 2 = 3 := by
  have values : ∀ x : BitVec 2, (x.getLsbD 0 && x.getLsbD 1) = true ↔ x = 3 := by decide
  rw [← values, getLsbD_extractLsb'_zero m Nat.two_pos, getLsbD_extractLsb'_zero m Nat.one_lt_two, burstMode]

theorem burstMode_any_iff (m : Word) : burstMode .any m = true ↔ m.extractLsb' 0 2 ≠ 0 := by
  have values : ∀ x : BitVec 2, (x.getLsbD 0 || x.getLsbD 1) = true ↔ x ≠ 0 := by decide
  rw [← values, getLsbD_extractLsb'_zero m Nat.two_pos, getLsbD_extractLsb'_zero m Nat.one_lt_two, burstMode]

/-- Settles O55: from any word by the bits R113 names, and from an encoded one by its sixteen values. -/
theorem modeWord : Obligations.ModeWord := by
  constructor
  · intro m
    exact ⟨getLsbD_iff_extractLsb'_one m 0, getLsbD_iff_extractLsb'_one m 1, burstMode_both_iff m, burstMode_any_iff m,
      getLsbD_iff_extractLsb'_one m 2, getLsbD_iff_extractLsb'_one m 8, getLsbD_iff_extractLsb'_one m 9⟩
  · decide

end Sys2Proof.Machine

/-! The answers a device gives to one request (30_encoding.md R93, R95, R96): what the engine makes of a response that
passes its checks, what it leaves of the stream, and the frames as moves of their own. -/

namespace Sys2Proof.Machine

/-! ### Responses that pass the checks -/

theorem readReply_length (sl : Byte) (w : List Word) : (readReply sl w).length = 2 * w.length + 5 := by
  simp [readReply, sealFrame, le16]

theorem ackReply_length (sl : Byte) (addr count : Word) : (ackReply sl addr count).length = 8 := by
  simp [ackReply, sealFrame, le16, be16]

/-- A read response with a matching CRC and the byte count of the request. -/
theorem receiveRead_readReply {s : State} {count : Word} {sl : Byte} {w : List Word} {more : List Byte}
    {es rest : List RxStep} (bound : Rat) (slave : s.AcceptsSlave sl) (len : w.length = count.toNat)
    (most : w.length ≤ 125) (arrives : Arrives es (readReply sl w ++ more)) (stream : s.env.rx = es ++ rest) :
    ∃ left, Arrives left more ∧ receiveRead count bound s =
      .ok w (({ s with seq := .check } : State).rxDone false (readReply sl w) (left ++ rest)) := by
  have byteCount : (BitVec.ofNat 8 (2 * w.length)).toNat = 2 * w.length := by simp; omega
  rw [readReply_eq] at arrives
  obtain ⟨_, left, _, remains, received⟩ := receiveRead_all count bound s sl fcRead (BitVec.ofNat 8 (2 * w.length))
    (wordsToBytes w) more _ _ es rest arrives stream (by simp [byteCount])
  refine ⟨left, remains, ?_⟩
  rw [received, if_pos slave, if_pos rfl, if_pos ⟨rfl, rfl⟩, if_pos (by rw [byteCount, len]), bytesToWords_wordsToBytes,
    readReply_eq]

/-- An acknowledgement with a matching CRC. -/
theorem receiveWrite_ackReply {s : State} {sl : Byte} {ea ec : Word} {es rest : List RxStep} (bound : Rat)
    (slave : s.AcceptsSlave sl) (arrives : Arrives es (ackReply sl ea ec)) (stream : s.env.rx = es ++ rest) :
    ∃ left, Arrives left [] ∧ receiveWrite bound s =
      .ok () { ({ s with seq := .check } : State).rxDone false (ackReply sl ea ec) (left ++ rest) with
        echoaddr := ea, echocnt := ec } := by
  obtain ⟨middle, tail, head⟩ := receiveWrite_head bound s sl fcWrite
    (be16 ea ++ be16 ec ++ le16 (crc16 ([sl, fcWrite] ++ be16 ea ++ be16 ec))) es rest arrives stream
  obtain ⟨left, remains, ack⟩ := receiveAck_arrives bound
    (({ s with seq := .rx1 } : State).rxDone false [sl, fcWrite] (middle ++ rest)) sl _ _ ea ec middle rest tail rfl
  refine ⟨left, remains, ?_⟩
  rw [head, if_pos slave, if_pos rfl]
  refine ack.trans ?_
  rw [if_pos ⟨rfl, rfl⟩]
  simp [State.rxDone, ackReply, sealFrame, le16, be16, fcWrite]

/-- A failure response is received whole and ends in a raise. -/
theorem receiveWrite_writeError {s : State} {sl fn : Byte} {p : List Byte} {es rest : List RxStep} (bound : Rat)
    (slave : s.AcceptsSlave sl) (failure : fn ≠ fcWrite) (len : p.length ≤ 255)
    (arrives : Arrives es (writeError sl fn p)) (stream : s.env.rx = es ++ rest) :
    ∃ left, Arrives left [] ∧ receiveWrite bound s =
      .error () (({ ({ s with seq := .rx3 } : State).rxDone false (writeError sl fn p) (left ++ rest) with
        errfunc := fn, errlen := BitVec.ofNat 8 p.length, errbuf := cellsWriteAll s.errbuf 0 p } : State).raise
          .writeNak fn.toNat p.length) := by
  obtain ⟨middle, tail, head⟩ := receiveWrite_head bound s sl fn (BitVec.ofNat 8 p.length :: p) es rest arrives stream
  obtain ⟨left, remains, nak⟩ := receiveNak_arrives bound
    (({ s with seq := .rx1 } : State).rxDone false [sl, fn] (middle ++ rest)) fn p len middle rest tail rfl
  refine ⟨left, remains, ?_⟩
  rw [head, if_pos slave, if_neg failure, nak]
  simp [State.rxDone, writeError]

/-! ### What is left of a stream whose last answer carries bytes -/

/-- The stream is empty or its last answer carries bytes. -/
def EndsInBytes (es : List RxStep) : Prop := ∀ e ∈ es.getLast?, ∃ b bs, e.answer = .data (b :: bs)

theorem endsInBytes_append_data (es : List RxStep) (b : Byte) (bs : List Byte) (x : Bool) :
    EndsInBytes (es ++ [⟨.data (b :: bs), x⟩]) := by
  simp [EndsInBytes]

theorem EndsInBytes.tail {e : RxStep} {es : List RxStep} (h : EndsInBytes (e :: es)) : EndsInBytes es := by
  cases es with
  | nil => simp [EndsInBytes]
  | cons f es => simpa [EndsInBytes] using h

theorem EndsInBytes.eq_nil {es : List RxStep} (h : EndsInBytes es) (emptied : Arrives es []) : es = [] := by
  rcases es.eq_nil_or_concat with rfl | ⟨pre, ⟨a, x⟩, rfl⟩
  · rfl
  · obtain ⟨b, bs, rfl⟩ : ∃ b bs, a = .data (b :: bs) := by simpa [EndsInBytes] using h
    obtain ⟨-, empty⟩ := emptied
    simp [streamBytes_append, streamBytes] at empty

/-- The answers a low-level read leaves, where it ended on the given ones. -/
def RxEnd.left? : RxEnd → Option (List RxStep)
  | .full _ rest | .timeout _ rest | .closed _ rest => some rest
  | .waiting _ => none

theorem rxLoop_endsInBytes (n : Nat) (es : List RxStep) :
    ∀ acc, EndsInBytes es → ∀ left ∈ (rxLoop n acc es).left?, EndsInBytes left := by
  induction es with
  | nil => intro acc _ left h; simp [rxLoop, RxEnd.left?] at h
  | cons e es ih =>
    intro acc h left
    obtain ⟨a, x⟩ := e
    cases a with
    | closed => simpa [rxLoop, RxEnd.left?] using fun e => e ▸ h.tail
    | none =>
      cases x with
      | true => simpa [rxLoop, RxEnd.left?] using fun e => e ▸ h.tail
      | false => simpa [rxLoop] using ih acc h.tail left
    | data bs =>
      simp only [rxLoop]
      split
      next =>
        split
        next => simpa [RxEnd.left?] using fun e => e ▸ h.tail
        next kept =>
          obtain ⟨b, bs', cut⟩ := List.exists_cons_of_ne_nil kept
          intro e
          obtain rfl : _ = left := by simpa [RxEnd.left?] using e
          rw [cut]
          cases es with
          | nil => exact endsInBytes_append_data [] b bs' x
          | cons f es => simpa [EndsInBytes] using h
      next =>
        cases x with
        | true => simpa [RxEnd.left?] using fun e => e ▸ h.tail
        | false => simpa using ih _ h.tail left

/-- What a run of reads leaves of the stream, where the given answers were enough. -/
abbrev State.Consumes (s t : State) : Prop :=
  s.draws ≤ t.draws ∧ (t.draws = s.draws → EndsInBytes s.env.rx → EndsInBytes t.env.rx)

theorem State.Consumes.refl (s : State) : s.Consumes s := ⟨le_rfl, fun _ => id⟩

theorem State.Consumes.trans {s t u : State} (h : s.Consumes t) (k : t.Consumes u) : s.Consumes u :=
  ⟨h.1.trans k.1, fun given ends => k.2 (by omega) (h.2 (by omega) ends)⟩

theorem State.consumes_rxDone (s : State) (n : Nat) (bound : Rat) (acc : List Byte) :
    ∀ rest ∈ (s.rxEnd n bound).left?, s.Consumes (s.rxDone (s.rxFree n) acc rest) := by
  intro rest h
  cases loop : rxLoop n [] s.env.rx with
  | waiting _ => exact ⟨by simp [State.rxFree, loop], fun given => by simp [State.rxFree, loop] at given⟩
  | full _ _ | timeout _ _ | closed _ _ =>
    have given := rxLoop_endsInBytes n s.env.rx []
    simp only [State.rxEnd, loop] at h given
    exact ⟨by simp [State.rxFree, loop], fun _ ends => given ends rest h⟩

/-- The operation relates its two streams so, however it ends. -/
abbrev ConsumesOnly {α : Type} (op : Engine α) : Prop := Keeps State.Consumes op

theorem consumes_receive (n : Nat) (bound : Rat) : ConsumesOnly (receive n bound) := by
  by_cases zero : n = 0
  · rw [show receive n bound = pure [] from if_pos zero]
    exact ends_pure .refl []
  · intro s
    have consumes := s.consumes_rxDone n bound
    simp only [receive, zero, ↓reduceIte]
    cases ended : s.rxEnd n bound with
    | full acc rest | closed acc rest | timeout acc rest =>
      have h : s.Consumes (s.rxDone (s.rxFree n) acc rest) := consumes acc rest (by simp [ended, RxEnd.left?])
      exact ⟨fun _ _ e => by cases e <;> exact h, fun _ _ e => by cases e <;> exact h⟩
    | waiting acc =>
      refine ⟨fun _ _ e => (by cases e), fun _ _ e => ?_⟩
      cases e
      exact ⟨by simp only [State.raise_draws, State.rxDone_draws]; split <;> omega, fun _ _ => by simp [EndsInBytes]⟩

theorem ConsumesOnly.then {α β : Type} {x : Engine α} {f : α → Engine β} (hx : ConsumesOnly x)
    (hf : ∀ a, ConsumesOnly (f a)) : ConsumesOnly (x >>= f) :=
  ends_bind (fun _ _ _ => .trans) (fun _ _ _ => .trans) hx hf

theorem consumes_update {f : State → State} (h : ∀ s : State, s.Consumes (f s)) : ConsumesOnly (update f) :=
  ends_update h

theorem consumes_moveSeq (q : Seq) : ConsumesOnly (moveSeq q) := ends_update fun s => .refl s

theorem consumes_require (p : Prop) [Decidable p] (c : Cause) (i0 i1 : Int) :
    ConsumesOnly (require p c i0 i1) :=
  ends_require .refl fun s => .refl s

theorem consumes_checkSlave (h : Byte) : ConsumesOnly (checkSlave h) :=
  ConsumesOnly.then (ends_inspect .refl State.cfg) fun _ => consumes_require _ _ _ _

theorem consumes_receiveRead (count : Word) (bound : Rat) : ConsumesOnly (receiveRead count bound) :=
  (consumes_moveSeq _).then fun _ => (consumes_receive _ _).then fun _ => (consumes_checkSlave _).then fun _ =>
    (consumes_require _ _ _ _).then fun _ => (consumes_moveSeq _).then fun _ => (consumes_receive _ _).then fun _ =>
      (consumes_moveSeq _).then fun _ => (consumes_require _ _ _ _).then fun _ =>
        (consumes_require _ _ _ _).then fun _ => ends_pure .refl _

theorem consumes_receiveAck (h : List Byte) (bound : Rat) : ConsumesOnly (receiveAck h bound) :=
  (consumes_moveSeq _).then fun _ => (consumes_receive _ _).then fun _ => (consumes_moveSeq _).then fun _ =>
    (consumes_require _ _ _ _).then fun _ => consumes_update fun s => .refl s

theorem consumes_receiveNak (errFunc : Byte) (bound : Rat) : ConsumesOnly (receiveNak errFunc bound) := by
  have writeFunc : ConsumesOnly (update fun s => { s with errfunc := errFunc }) := consumes_update fun s => .refl s
  have writeLen (len : Byte) : ConsumesOnly (update fun s => { s with errlen := len }) :=
    consumes_update fun s => .refl s
  have writeBuf (p : List Byte) : ConsumesOnly (update fun s => { s with errbuf := cellsWriteAll s.errbuf 0 p }) :=
    consumes_update fun s => .refl s
  exact writeFunc.then fun _ => (consumes_moveSeq _).then fun _ => (consumes_receive _ _).then fun l =>
    (writeLen (byteAt l 0)).then fun _ => (consumes_moveSeq _).then fun _ => (consumes_receive _ _).then fun p =>
      (writeBuf p).then fun _ => ends_raise fun s => .refl s

theorem consumes_receiveWrite (bound : Rat) : ConsumesOnly (receiveWrite bound) := by
  refine (consumes_moveSeq _).then fun _ => (consumes_receive _ _).then fun h =>
    (consumes_checkSlave _).then fun _ => ?_
  split
  · exact consumes_receiveAck _ _
  · exact consumes_receiveNak _ _

/-! ### Moves of the device -/

/-- The stream with one more answer of the device. -/
def State.answered (s : State) (bytes : List Byte) : State :=
  { s with env := { s.env with rx := s.env.rx ++ [⟨.data bytes, false⟩] } }

theorem State.deliver_of_idle {s : State} (h : s.pend = none) (bytes : List Byte) :
    s.deliver bytes = s.answered bytes := by
  unfold State.deliver
  split
  next p opened => simp [h] at opened
  next => rfl

theorem State.deliver_of_pend {s : State} {p : Pending} (h : s.pend = some p) (bytes : List Byte) :
    s.deliver bytes = (s.answered bytes).completePending p := by
  unfold State.deliver
  split
  next q same =>
    obtain rfl : p = q := by simpa [h] using same
    rfl
  next idle => simp [h] at idle

theorem State.completePending_read (s : State) (count : Word) (bound : Rat) :
    s.completePending ⟨.read count, bound⟩ = runOp (onFault (endRead count bound) State.readFailed) s := rfl

theorem State.completePending_write (s : State) (bound : Rat) :
    s.completePending ⟨.write, bound⟩ = runOp (endWrite bound) s := rfl

theorem Arrives.append_data {es : List RxStep} (h : Arrives es []) (bytes : List Byte) :
    Arrives (es ++ [⟨.data bytes, false⟩]) bytes := by
  obtain ⟨waits, empty⟩ := h
  refine ⟨fun e mem => ?_, by simp [streamBytes_append, streamBytes, empty]⟩
  rcases List.mem_append.1 mem with old | new
  · exact waits e old
  · obtain rfl := List.mem_singleton.1 new
    exact ⟨nofun, rfl⟩

/-- A response that is received whole leaves nothing in the stream it came last in. -/
theorem State.Consumes.eq_nil {s t : State} {b : Byte} {bs : List Byte} {left : List RxStep}
    (h : (s.answered (b :: bs)).Consumes t) (given : t.draws = s.draws) (stream : t.env.rx = left ++ [])
    (emptied : Arrives left []) : left = [] := by
  have ends : EndsInBytes t.env.rx := h.2 given (endsInBytes_append_data s.env.rx b bs false)
  rw [stream, List.append_nil] at ends
  exact ends.eq_nil emptied

theorem endRead_ok {s t : State} {count : Word} {bound : Rat} {w : List Word}
    (h : receiveRead count bound s = .ok w t) :
    endRead count bound s =
      .ok () ({ t with rdb := cellsWriteAll t.rdb 0 w, rdcnt := count.setWidth 17 } : State).finished := by
  rw [endRead, engine_bind_ok h]
  rfl

theorem endWrite_ok {s t : State} {bound : Rat} (h : receiveWrite bound s = .ok () t) :
    endWrite bound s = .ok () t.finished := by
  rw [endWrite, engine_bind_ok h]
  rfl

theorem endWrite_error {s t : State} {bound : Rat} (h : receiveWrite bound s = .error () t) :
    endWrite bound s = .error () t :=
  engine_bind_error h

theorem deliver_readReply {s : State} {count : Word} {bound : Rat} {sl : Byte} {w : List Word}
    (pend : s.pend = some ⟨.read count, bound⟩) (slave : s.AcceptsSlave sl) (cleared : s.rxacc = [])
    (waits : Arrives s.env.rx []) (len : w.length = count.toNat) (most : w.length ≤ 125) :
    s.deliver (readReply sl w) =
      ({ s with
        rdb := cellsWriteAll s.rdb 0 w, rdcnt := count.setWidth 17, rxacc := readReply sl w
        env := { s.env with rx := [] } } : State).finished := by
  have arrives : Arrives (s.answered (readReply sl w)).env.rx (readReply sl w ++ []) := by
    rw [List.append_nil]
    exact waits.append_data _
  obtain ⟨left, emptied, received⟩ := receiveRead_readReply (s := s.answered (readReply sl w)) bound slave len most
    arrives (List.append_nil _).symm
  obtain rfl : left = [] := ((consumes_receiveRead count bound _).1 _ _ received).eq_nil rfl rfl emptied
  have fits := accumulate_of_fits (a := []) (b := readReply sl w) (by simp [readReply_length, rxaccBytes]; omega)
  rw [State.deliver_of_pend pend, State.completePending_read, runOp_ok (onFault_ok (endRead_ok received))]
  simp [State.finished, State.rxDone, State.answered, cleared, fits]

theorem deliver_ackReply {s : State} {bound : Rat} {sl : Byte} {ea ec : Word}
    (pend : s.pend = some ⟨.write, bound⟩) (slave : s.AcceptsSlave sl) (cleared : s.rxacc = [])
    (waits : Arrives s.env.rx []) :
    s.deliver (ackReply sl ea ec) =
      ({ s with
        echoaddr := ea, echocnt := ec, rxacc := ackReply sl ea ec
        env := { s.env with rx := [] } } : State).finished := by
  obtain ⟨left, emptied, received⟩ := receiveWrite_ackReply (s := s.answered (ackReply sl ea ec)) bound slave
    (waits.append_data _) (List.append_nil _).symm
  obtain rfl : left = [] := ((consumes_receiveWrite bound _).1 _ _ received).eq_nil rfl rfl emptied
  have fits := accumulate_of_fits (a := []) (b := ackReply sl ea ec) (by simp [ackReply_length, rxaccBytes])
  rw [State.deliver_of_pend pend, State.completePending_write, runOp_ok (endWrite_ok received)]
  simp [State.finished, State.rxDone, State.answered, cleared, fits]

theorem deliver_writeError {s : State} {bound : Rat} {sl fn : Byte} {p : List Byte}
    (pend : s.pend = some ⟨.write, bound⟩) (slave : s.AcceptsSlave sl) (cleared : s.rxacc = [])
    (waits : Arrives s.env.rx []) (failure : fn ≠ fcWrite) (len : p.length ≤ 255) :
    s.deliver (writeError sl fn p) =
      ({ s with
        errfunc := fn, errlen := BitVec.ofNat 8 p.length, errbuf := cellsWriteAll s.errbuf 0 p
        rxacc := writeError sl fn p, env := { s.env with rx := [] } } : State).raise .writeNak fn.toNat p.length := by
  obtain ⟨left, emptied, received⟩ := receiveWrite_writeError (s := s.answered (writeError sl fn p)) bound slave
    failure len (waits.append_data _) (List.append_nil _).symm
  obtain rfl : left = [] := ((consumes_receiveWrite bound _).2 _ _ received).eq_nil rfl rfl emptied
  have fits := accumulate_of_fits (a := []) (b := writeError sl fn p) (by simp [writeError, rxaccBytes]; omega)
  rw [State.deliver_of_pend pend, State.completePending_write, runOp_error (endWrite_error received)]
  simp [State.raise, State.rxDone, State.answered, cleared, fits]

theorem exec_rdrsp (sl : Byte) (p : List Byte) (crc : Word) (s : State) :
    exec (.rdrsp sl p crc) s = .next (s.deliver (readResponse sl p crc)) := rfl

theorem exec_wrack (sl : Byte) (addr count crc : Word) (s : State) :
    exec (.wrack sl addr count crc) s = .next (s.deliver (writeAck sl addr count crc)) := rfl

theorem exec_wrerr (sl fn : Byte) (p : List Byte) (s : State) :
    exec (.wrerr sl fn p) s = .next (s.deliver (writeError sl fn p)) := rfl

/-- Settles O37: what is put on an idle line waits there; the transaction that awaits it ends as its operation does. -/
theorem responseMoves : Obligations.ResponseMoves := by
  refine ⟨fun s sl fn p addr count crc idle => ?_, ?_, ?_, ?_⟩
  · rw [exec_rdrsp, exec_wrack, exec_wrerr, State.deliver_of_idle idle, State.deliver_of_idle idle,
      State.deliver_of_idle idle]
    exact ⟨rfl, rfl, rfl⟩
  · intro s sl w count crc bound pend slave cleared waits len most sealed
    rw [exec_rdrsp, sealed, deliver_readReply pend slave cleared waits len most]
  · intro s sl addr count crc bound pend slave cleared waits sealed
    rw [exec_wrack, sealed, deliver_ackReply pend slave cleared waits]
  · intro s sl fn p bound pend slave cleared waits failure len
    rw [exec_wrerr, deliver_writeError pend slave cleared waits failure len]

/-! ### Moves of the engine -/

/-- Settles O36: past its checks a request move is the request half of RD.W or WR.W under the bound TMO. -/
theorem requestMoves : Obligations.RequestMoves := by
  constructor
  · intro s addr count ready
    have sent := onFault_ok (f := State.readFailed) (beginRead_ready s addr count s.tmo ready)
    exact congrArg _ (runOp_ok sent)
  · intro s addr v ready
    exact congrArg _ (runOp_ok (beginWrite_ready s addr v s.tmo ready))

end Sys2Proof.Machine

/-! The pseudo-operations (30_encoding.md R104): whether the first of their two operations ended normally shows in
STATUS, and the transfers of a configuration are carried through both. -/

namespace Sys2Proof.Machine

/-! ### A fault shows in STATUS (60_exceptions.md R311) -/

theorem Cause.status_ne_zero (c : Cause) : c.status ≠ 0 := by cases c <;> decide

/-- A raise that ends the operation leaves its code in STATUS. -/
abbrev Reports {α : Type} (op : Engine α) : Prop := Ends (fun _ _ => True) (fun _ t => t.status ≠ 0) op

/-- STATUS tells a normal end from a raise. -/
abbrev Concludes {α : Type} (op : Engine α) : Prop := Ends (fun _ t => t.status = 0) (fun _ t => t.status ≠ 0) op

section

variable {α β : Type}

theorem Reports.then {x : Engine α} {f : α → Engine β} (hx : Reports x) (hf : ∀ a, Reports (f a)) :
    Reports (x >>= f) :=
  ends_bind (fun _ _ _ _ => id) (fun _ _ _ _ => id) hx hf

theorem Reports.thenConcludes {x : Engine α} {f : α → Engine β} (hx : Reports x) (hf : ∀ a, Concludes (f a)) :
    Concludes (x >>= f) :=
  ends_bind_of hx hf (fun _ _ _ _ => id) (fun _ _ => id) fun _ _ _ _ => id

theorem reports_pure (a : α) : Reports (pure a : Engine α) := ends_pure (fun _ => trivial) a

theorem reports_update (f : State → State) : Reports (update f) := ends_update fun _ => trivial

theorem reports_inspect (f : State → α) : Reports (inspect f) := ends_inspect (fun _ => trivial) f

theorem reports_require (p : Prop) [Decidable p] (c : Cause) (i0 i1 : Int) : Reports (require p c i0 i1) :=
  ends_require (fun _ => trivial) fun _ => c.status_ne_zero

theorem reports_receive (n : Nat) (bound : Rat) : Reports (receive n bound) :=
  ends_receive (fun _ => trivial) (fun _ _ _ _ => trivial) (fun _ _ _ _ c _ _ _ => c.status_ne_zero) n bound

theorem reports_transmit (frame : List Byte) : Reports (transmit frame) :=
  ends_transmit frame (fun _ => trivial) fun _ _ => Cause.status_ne_zero .writeFail

theorem reports_sendRead (addr count : Word) (bound : Rat) : Reports (sendRead addr count bound) :=
  (reports_inspect _).then fun _ => (reports_update _).then fun _ => (reports_transmit _).then fun _ => reports_update _

theorem reports_receiveRead (count : Word) (bound : Rat) : Reports (receiveRead count bound) :=
  (reports_update _).then fun _ => (reports_receive _ _).then fun _ =>
    ((reports_inspect _).then fun _ => reports_require _ _ _ _).then fun _ => (reports_require _ _ _ _).then fun _ =>
      (reports_update _).then fun _ => (reports_receive _ _).then fun _ => (reports_update _).then fun _ =>
        (reports_require _ _ _ _).then fun _ => (reports_require _ _ _ _).then fun _ => reports_pure _

theorem reports_checkLink : Reports checkLink := (reports_inspect _).then fun _ => reports_require _ _ _ _

theorem reports_beginRead (addr count : Word) (bound : Rat) : Reports (beginRead addr count bound) :=
  (reports_update _).then fun _ => (reports_require _ _ _ _).then fun _ => (reports_require _ _ _ _).then fun _ =>
    reports_checkLink.then fun _ => (reports_update _).then fun _ => reports_sendRead _ _ _

theorem concludes_finishTransport : Concludes finishTransport := ends_update fun _ => rfl

theorem concludes_opRdW (addr count : Word) (tmo : Option Rat) : Concludes (opRdW addr count tmo) := by
  refine (reports_inspect _).thenConcludes fun bound => ends_onFault ?_ fun _ _ => id
  exact (reports_beginRead _ _ _).thenConcludes fun _ => (reports_receiveRead _ _).thenConcludes fun _ =>
    (reports_update _).thenConcludes fun _ => concludes_finishTransport

theorem reports_readSegments (total : BitVec 17) (bound : Rat) (fuel : Nat) :
    Reports (readSegments total bound fuel) := by
  induction fuel with
  | zero => exact reports_pure ()
  | succ fuel ih =>
    have segment : Reports (readSegment total bound) :=
      (reports_inspect _).then fun _ => (reports_inspect _).then fun _ => (reports_update _).then fun _ =>
        ((reports_sendRead _ _ _).then fun _ => reports_receiveRead _ _).then fun _ => reports_update _
    refine (reports_inspect _).then fun rem => ?_
    split
    · exact reports_pure ()
    · exact segment.then fun _ => ih

theorem concludes_opRdBuf (addr : Word) (total : Nat) (tmo : Option Rat) : Concludes (opRdBuf addr total tmo) := by
  refine (reports_inspect _).thenConcludes fun bound => ends_onFault ?_ fun _ _ => id
  exact (reports_update _).thenConcludes fun _ => (reports_require _ _ _ _).thenConcludes fun _ =>
    reports_checkLink.thenConcludes fun _ => (reports_update _).thenConcludes fun _ =>
      (reports_readSegments _ _ _).thenConcludes fun _ => (reports_update _).thenConcludes fun _ =>
        concludes_finishTransport

end

/-- What follows an operation runs where STATUS says that it ended normally. -/
theorem Concludes.runOp_bind {x : Engine Unit} (h : Concludes x) (f : Unit → Engine Unit) (s : State) :
    runOp (x >>= f) s = if (runOp x s).status = 0 then runOp (f ()) (runOp x s) else runOp x s := by
  cases ended : x s with
  | ok a t =>
    have normal : t.status = 0 := (h s).1 a t ended
    rw [runOp_ok ended, if_pos normal, runOp, engine_bind_ok ended]
    rfl
  | error e t =>
    have fault : t.status ≠ 0 := (h s).2 e t ended
    rw [runOp_error ended, if_neg fault, runOp_error (engine_bind_error ended)]

/-! ### CFG.TOREGS, CFG.FROMREGS and PROF.DEC behind their tests -/

theorem opCfgToRegs_apply (k : Nat) (s : State) :
    opCfgToRegs k s =
      if k < s.nSlots then
        if s.slotValid k = true then .ok () { s with rl := (s.slotRegs k).toRegs, status := 0 }
        else .error () (s.raise .hcNotLoaded k 0)
      else .error () (s.raise .badSlot k 0) := by
  simp only [opCfgToRegs, checkSlot_bind, checkLoaded_bind]
  rfl

theorem opCfgFromRegs_toRegs {k : Nat} {s : State} (range : k < s.nSlots) (h : HwConfig) :
    opCfgFromRegs k h.toRegs s = .ok () { s with hc := s.hc.set k ⟨true, h⟩, status := 0 } := by
  rw [opCfgFromRegs, checkSlot_bind, if_pos range]
  rfl

/-! ### The expansions -/

theorem exec_wrCfg (k : Nat) (a : Word) (s : State) : exec (.wrCfg k a) s = .next (runOp (opWrCfg k a) s) := rfl

theorem exec_rdCfg (k : Nat) (a : Word) (s : State) : exec (.rdCfg k a) s = .next (runOp (opRdCfg k a) s) := rfl

theorem exec_rdProf (k : Nat) (a : Word) (s : State) : exec (.rdProf k a) s = .next (runOp (opRdProf k a) s) := rfl

theorem exec_cfgFromRegs (k : Nat) (l : List Word) (s : State) :
    exec (.cfgFromRegs k l) s = .next (runOp (opCfgFromRegs k l) s) := rfl

theorem exec_profDec (pb : List Byte) (k : Nat) (s : State) :
    exec (.profDec pb k) s = .next (runOp (opProfDec pb k) s) := rfl

theorem runOp_inspect_bind {α β : Type} (f : State → α) (g : α → Engine β) (s : State) :
    runOp (inspect f >>= g) s = runOp (g (f s)) s := rfl

theorem exec_wrCfg_expands (s : State) (k : Nat) (a : Word) :
    exec (.wrCfg k a) s =
      if k < s.nSlots ∧ s.slotValid k = true then
        exec (.wrW a (s.slotRegs k).toRegs none) (runOp (opCfgToRegs k) s)
      else .next (runOp (opCfgToRegs k) s) := by
  have stores := opCfgToRegs_apply k s
  rw [exec_wrCfg, opWrCfg]
  by_cases loaded : k < s.nSlots ∧ s.slotValid k = true
  · rw [if_pos loaded.1, if_pos loaded.2] at stores
    rw [if_pos loaded, runOp, engine_bind_ok stores, runOp_ok stores]
    rfl
  · rw [if_neg loaded]
    by_cases range : k < s.nSlots
    · rw [if_pos range, if_neg fun valid => loaded ⟨range, valid⟩] at stores
      rw [runOp_error (engine_bind_error stores), runOp_error stores]
    · rw [if_neg range] at stores
      rw [runOp_error (engine_bind_error stores), runOp_error stores]

theorem exec_rdCfg_expands (s : State) (k : Nat) (a : Word) :
    exec (.rdCfg k a) s =
      if (runOp (opRdW a 17 none) s).status = 0 then
        exec (.cfgFromRegs k (cellsReadAll (runOp (opRdW a 17 none) s).rdb 0 17)) (runOp (opRdW a 17 none) s)
      else .next (runOp (opRdW a 17 none) s) := by
  rw [exec_rdCfg, opRdCfg, (concludes_opRdW a 17 none).runOp_bind]
  generalize runOp (opRdW a 17 none) s = t
  rw [runOp_inspect_bind, exec_cfgFromRegs]
  split <;> rfl

/-- The two operations RD.PROF expands to, once the word total is known. -/
def opReadAndDecode (k : Nat) (a : Word) (total : Nat) : Engine Unit := do
  opRdBuf a total none
  let pb ← inspect fun s => wordsToBytes (cellsReadAll s.rdb 0 s.rdcnt.toNat)
  opProfDec pb k

theorem opRdProf_apply (k : Nat) (a : Word) (s : State) :
    opRdProf k a s =
      if k < s.nSlots then
        if s.slotValid k = true then opReadAndDecode k a (s.profileTotal k) { s with draws := s.draws + 1 }
        else .error () (s.raise .hcNotLoaded k 0)
      else .error () (s.raise .badSlot k 0) := by
  simp only [opRdProf, checkSlot_bind, checkLoaded_bind]
  rfl

theorem runOp_opRdProf {k : Nat} {s : State} (range : k < s.nSlots) (valid : s.slotValid k = true) (a : Word) :
    runOp (opRdProf k a) s = runOp (opReadAndDecode k a (s.profileTotal k)) { s with draws := s.draws + 1 } := by
  rw [runOp, opRdProf_apply, if_pos range, if_pos valid]
  rfl

theorem State.profileTotal_eq {s : State} {k n : Nat} (total : (n : Int) = 11 + 4 * sRead (s.slotRegs k).nVol) :
    s.profileTotal k = n := by
  simp only [State.profileTotal, profileHeadWords, Nat.cast_ofNat, ← total, Int.natCast_nonneg, if_true,
    Int.toNat_natCast]

/-- RD.BUF past the last address, with any number of words. -/
theorem opRdBuf_addrRange {addr : Word} {total : Nat} (past : 65536 < addr.toNat + total) (tmo : Option Rat)
    (s : State) :
    opRdBuf addr total tmo s =
      .error () (({ s with rdcnt := 0, segcnt := 0 } : State).raise .addrRange addr.toNat total).readFailed := by
  have refused : ¬ addr.toNat + total ≤ 65536 := Nat.not_le.2 past
  rw [opRdBuf, inspect_bind]
  refine onFault_error ?_
  rw [update_bind]
  exact (checkAddr_bind _ _ _ _).trans (if_neg refused)

theorem runOp_opReadAndDecode (k : Nat) (a : Word) (total : BitVec 17) (s : State) :
    Host.Outcome.next (runOp (opReadAndDecode k a total.toNat) s) =
      (if (runOp (opRdBuf a total.toNat none) s).status = 0 then
        exec (.profDec (wordsToBytes (cellsReadAll (runOp (opRdBuf a total.toNat none) s).rdb 0
          (runOp (opRdBuf a total.toNat none) s).rdcnt.toNat)) k) (runOp (opRdBuf a total.toNat none) s)
      else .next (runOp (opRdBuf a total.toNat none) s) : Host.Outcome State Fault Refusal) := by
  rw [opReadAndDecode, (concludes_opRdBuf a total.toNat none).runOp_bind]
  generalize runOp (opRdBuf a total.toNat none) s = t
  rw [runOp_inspect_bind, exec_profDec]
  split <;> rfl

/-- Settles O39: the first operation ends the expansion where a raise ended it, which STATUS shows. -/
theorem pseudoOperationsExpand : Obligations.PseudoOperationsExpand := by
  refine ⟨?_, ?_, ?_, ?_, ?_, ?_⟩
  · intro s t k a first
    obtain rfl := Host.Outcome.next.inj first
    exact exec_wrCfg_expands s k a
  · intro s t k a first
    obtain rfl := Host.Outcome.next.inj first
    exact exec_rdCfg_expands s k a
  · intro s k a past
    rw [exec_rdProf, runOp, opRdProf_apply, if_neg (Nat.not_lt.2 past)]
  · intro s k a range unloaded
    rw [exec_rdProf, runOp, opRdProf_apply, if_pos range, if_neg (by simp [unloaded])]
  · intro s k n a range valid total past
    have faults := opRdBuf_addrRange past none { s with draws := s.draws + 1 }
    rw [exec_rdProf, runOp_opRdProf range valid, State.profileTotal_eq total, opReadAndDecode,
      runOp_error (engine_bind_error faults)]
  · intro s t k a total range valid words first
    obtain rfl := Host.Outcome.next.inj first
    rw [exec_rdProf, runOp_opRdProf range valid, State.profileTotal_eq words]
    exact runOp_opReadAndDecode k a total _

/-! ### Transfers of a configuration -/

theorem cellsReadAll_writeAll {w : Nat} (vs : List (BitVec w)) :
    ∀ (c : Cells w) (i : Nat), cellsWf c = true → cellsReadAll (cellsWriteAll c i vs) i vs.length = vs := by
  induction vs with
  | nil => intro c i _; rfl
  | cons v vs ih =>
    intro c i canonical
    have first : cellsRead (cellsWriteAll c i (v :: vs)) i = v := by
      simpa using cellsRead_writeAll (v :: vs) c i 0 canonical (by simp)
    rw [List.length_cons, cellsReadAll, first]
    exact congrArg _ (ih (cellsWrite c i v) (i + 1) (cellsWf_write c i v canonical))

/-- RD.W against a device that answers, however the stream cuts the response (41_transport.md R170). -/
theorem opRdW_readReply {s : State} {addr count : Word} {sl : Byte} {w : List Word} {es rest : List RxStep}
    (tmo : Option Rat) (ready : s.Ready addr count.toNat 125) (slave : s.AcceptsSlave sl)
    (len : w.length = count.toNat) (stream : s.env.rx = es ++ rest) (arrives : Arrives es (readReply sl w)) :
    ∃ left, Arrives left [] ∧ opRdW addr count tmo s =
      .ok () ({ s.exchanged (readRequest s.cfg.slaveAddr addr count) (readReply sl w) (left ++ rest) with
        rdb := cellsWriteAll s.rdb 0 w, rdcnt := count.setWidth 17 } : State).finished := by
  have sent := beginRead_ready s addr count (s.bound tmo) ready
  have most : w.length ≤ 125 := len ▸ ready.1.2
  obtain ⟨left, emptied, received⟩ := receiveRead_readReply
    (s := { s.exchanged (readRequest s.cfg.slaveAddr addr count) [] s.env.rx with
      rdcnt := 0, busy := true, seq := .rx1, pend := some ⟨.read count, s.bound tmo⟩ })
    (es := es) (rest := rest) (more := []) (s.bound tmo) (by simpa using slave) len most (by simpa using arrives)
    (by simp [stream])
  refine ⟨left, emptied, ?_⟩
  rw [opRdW, inspect_bind, onFault_ok ((engine_bind_ok sent).trans (endRead_ok received))]
  simp [State.exchanged, State.rxDone, State.finished]

/-- WR.W against a device that acknowledges (41_transport.md R180, R183). -/
theorem opWrW_ackReply {s : State} {addr : Word} {v : List Word} {sl : Byte} {ea ec : Word} {es rest : List RxStep}
    (tmo : Option Rat) (ready : s.Ready addr v.length 123) (slave : s.AcceptsSlave sl) (stream : s.env.rx = es ++ rest)
    (arrives : Arrives es (ackReply sl ea ec)) :
    ∃ left, Arrives left [] ∧ opWrW addr v tmo s =
      .ok () ({ s.exchanged (writeRequest s.cfg.slaveAddr addr v) (ackReply sl ea ec) (left ++ rest) with
        echoaddr := ea, echocnt := ec } : State).finished := by
  have sent := beginWrite_ready s addr v (s.bound tmo) ready
  obtain ⟨left, emptied, received⟩ := receiveWrite_ackReply
    (s := { s.exchanged (writeRequest s.cfg.slaveAddr addr v) [] s.env.rx with
      busy := true, seq := .rx1, pend := some ⟨.write, s.bound tmo⟩ })
    (es := es) (rest := rest) (s.bound tmo) (by simpa using slave) arrives (by simp [stream])
  refine ⟨left, emptied, ?_⟩
  rw [opWrW, inspect_bind, engine_bind_ok sent, endWrite_ok received]
  simp [State.exchanged, State.rxDone, State.finished]

theorem exec_rdCfg_of_read {s t : State} {k : Nat} {a : Word} {h : HwConfig} {old : Cells 16}
    (read : opRdW a 17 none s = .ok () t) (range : k < t.nSlots) (canonical : cellsWf old = true)
    (rdb : t.rdb = cellsWriteAll old 0 h.toRegs) :
    exec (.rdCfg k a) s = .next { t with hc := t.hc.set k ⟨true, h⟩, status := 0 } := by
  have words : cellsReadAll t.rdb 0 17 = h.toRegs := rdb ▸ cellsReadAll_writeAll h.toRegs old 0 canonical
  have normal : t.status = 0 := (concludes_opRdW a 17 none s).1 () t read
  rw [exec_rdCfg_expands, runOp_ok read, if_pos normal, words, exec_cfgFromRegs,
    runOp_ok (opCfgFromRegs_toRegs range h)]

/-- Settles O40: the words stored in RL are written, and the words read are loaded, by the second operation. -/
theorem configTransfers : Obligations.ConfigTransfers := by
  constructor
  · intro s k a sl ea ec es rest range valid ready slave stream arrives
    obtain ⟨left, emptied, written⟩ := opWrW_ackReply (s := { s with rl := (s.slotRegs k).toRegs, status := 0 })
      (v := (s.slotRegs k).toRegs) none ready slave stream arrives
    have stores := opCfgToRegs_apply k s
    rw [if_pos range, if_pos valid] at stores
    refine ⟨left, emptied, ?_⟩
    rw [exec_wrCfg_expands, if_pos ⟨range, valid⟩, runOp_ok stores, exec_wrW, runOp_ok written]
    simp [State.exchanged, State.finished]
  · intro s k a sl h es rest range ready slave stream arrives canonical
    obtain ⟨left, emptied, read⟩ := opRdW_readReply (count := 17) none ready slave rfl stream arrives
    refine ⟨left, emptied, ?_⟩
    rw [exec_rdCfg_of_read (h := h) read (by simpa [State.nSlots] using range) canonical (by rw [State.finished_rdb])]
    simp [State.finished]

end Sys2Proof.Machine

/-! RD.BUF against a device that answers (41_transport.md R190, R191), and RD.PROF, which decodes the block so read
(30_encoding.md R104). -/

namespace Sys2Proof.Machine

/-! ### Blocks of words -/

theorem cellsWriteAll_append {w : Nat} (a b : List (BitVec w)) :
    ∀ (c : Cells w) (i : Nat), cellsWriteAll (cellsWriteAll c i a) (i + a.length) b = cellsWriteAll c i (a ++ b) := by
  induction a with
  | nil => intro c i; rfl
  | cons v a ih =>
    intro c i
    rw [List.length_cons, Nat.add_comm a.length, ← Nat.add_assoc]
    exact ih (cellsWrite c i v) (i + 1)

@[simp] theorem deviceWords_length (dev : Nat → Word) (addr n : Nat) : (deviceWords dev addr n).length = n := by
  simp [deviceWords]

theorem deviceWords_getD (dev : Nat → Word) (addr : Nat) {n j : Nat} (h : j < n) :
    (deviceWords dev addr n).getD j 0 = dev (addr + j) := by
  simp [deviceWords, List.getD_eq_getElem?_getD, h]

theorem deviceWords_append (dev : Nat → Word) (addr k n : Nat) :
    deviceWords dev addr k ++ deviceWords dev (addr + k) n = deviceWords dev addr (k + n) := by
  simp [deviceWords, List.range_add, Nat.add_assoc]

/-! ### The segments (R190) -/

@[simp] theorem segments_zero (addr fuel : Nat) : segments addr fuel 0 = [] := by
  cases fuel <;> rfl

/-- Any bound on the number of segments gives the same ones. -/
theorem segments_fuel (f : Nat) : ∀ addr rem g, rem ≤ f → rem ≤ g → segments addr f rem = segments addr g rem := by
  induction f with
  | zero =>
    intro addr rem g hf _
    obtain rfl : rem = 0 := by omega
    simp
  | succ f ih =>
    intro addr rem g hf hg
    cases g with
    | zero =>
      obtain rfl : rem = 0 := by omega
      simp
    | succ g =>
      by_cases zero : rem = 0
      · simp [zero]
      · rw [segments, segments, if_neg zero, if_neg zero, ih _ _ g (by omega) (by omega)]

theorem segments_of_pos (addr : Nat) {rem : Nat} (h : 0 < rem) :
    segments addr rem rem =
      (addr, min rem 125) :: segments (addr + min rem 125) (rem - min rem 125) (rem - min rem 125) := by
  obtain ⟨fuel, rfl⟩ : ∃ fuel, rem = fuel + 1 := ⟨rem - 1, by omega⟩
  rw [segments, if_neg (by omega), segments_fuel fuel _ _ _ (by omega) le_rfl]

theorem segmentRequests_of_pos (slave : Byte) (addr : Nat) {rem : Nat} (h : 0 < rem) :
    segmentRequests slave addr rem =
      readRequest slave (BitVec.ofNat 16 addr) (BitVec.ofNat 16 (min rem 125)) ++
        segmentRequests slave (addr + min rem 125) (rem - min rem 125) := by
  simp only [segmentRequests, segments_of_pos addr h, List.flatMap_cons]

theorem segmentReplies_of_pos (slave : Byte) (dev : Nat → Word) (addr : Nat) {rem : Nat} (h : 0 < rem) :
    segmentReplies slave dev addr rem =
      readReply slave (deviceWords dev addr (min rem 125)) ++
        segmentReplies slave dev (addr + min rem 125) (rem - min rem 125) := by
  simp only [segmentReplies, segments_of_pos addr h, List.flatMap_cons]

/-! ### Reading them -/

/-- `s` after `n` transactions of RD.BUF that sent `frames` and delivered `words` from place `i` on, with the answers
`tx` and `rx` still to come. The registers that belong to a transaction in progress are those of `inner`. -/
def State.delivered (s : State) (i : Nat) (words : List Word) (n : Nat) (frames : List Byte) (tx : List TxAnswer)
    (rx : List RxStep) (inner : State) : State :=
  { s with
    rdb := cellsWriteAll s.rdb i words
    segcnt := s.segcnt + BitVec.ofNat 16 n
    sent := s.sent ++ frames
    env := { s.env with tx := tx, rx := rx }
    busy := inner.busy
    seq := inner.seq
    cur := inner.cur
    rem := inner.rem
    rxacc := inner.rxacc
    pend := inner.pend }

theorem State.delivered_nil {s : State} {tx : List TxAnswer} {rx : List RxStep} (htx : s.env.tx = tx)
    (hrx : s.env.rx = rx) (i : Nat) : s.delivered i [] 0 [] tx rx s = s := by
  simp [State.delivered, cellsWriteAll, ← htx, ← hrx]

theorem State.delivered_delivered (s p q : State) (i : Nat) (a b : List Word) (n m : Nat) (f g : List Byte)
    (tx tx' : List TxAnswer) (rx rx' : List RxStep) :
    (s.delivered i a n f tx rx p).delivered (i + a.length) b m g tx' rx' q =
      s.delivered i (a ++ b) (n + m) (f ++ g) tx' rx' q := by
  simp [State.delivered, cellsWriteAll_append, BitVec.ofNat_add, BitVec.add_assoc]

/-- A request has been sent, `tx` is left to answer the next ones, and the response is awaited. -/
def State.requested (s : State) (frame : List Byte) (tx : List TxAnswer) (p : Pending) : State :=
  { s with
    env := { s.env with tx := tx }, sent := s.sent ++ frame, rxacc := [], seq := .rx1, pend := some p }

theorem sendRequest_ok {s : State} {tx : List TxAnswer} (answer : s.env.tx = .ok :: tx) (q : List Byte) (p : Pending) :
    sendRequest q p s = .ok () (s.requested (sealFrame q) tx p) := by
  rw [sendRequest, update_bind]
  rcases transmit_cases (sealFrame q) { s with rxacc := [], seq := .tx } with ⟨_, taken⟩ | ⟨_, cut, _⟩
  · rw [engine_bind_ok taken, update_apply]
    simp [State.txDrawn, State.requested, answer]
  · simp [State.txAnswer, answer] at cut

theorem memRead_readReply {s : State} {addr count : Word} {sl : Byte} {w : List Word} {tx : List TxAnswer}
    {es rest : List RxStep} {more : List Byte} (bound : Rat) (slave : s.AcceptsSlave sl) (len : w.length = count.toNat)
    (most : w.length ≤ 125) (answer : s.env.tx = .ok :: tx) (stream : s.env.rx = es ++ rest)
    (arrives : Arrives es (readReply sl w ++ more)) :
    ∃ left, Arrives left more ∧ memRead addr count bound s =
      .ok w { s with
        sent := s.sent ++ readRequest s.cfg.slaveAddr addr count, env := { s.env with tx := tx, rx := left ++ rest }
        rxacc := accumulate [] (readReply sl w), seq := .check, pend := some ⟨.read count, bound⟩ } := by
  have sent := sendRequest_ok answer (readBody s.cfg.slaveAddr addr count) ⟨.read count, bound⟩
  obtain ⟨left, arrived, received⟩ := receiveRead_readReply
    (s := s.requested (readRequest s.cfg.slaveAddr addr count) tx ⟨.read count, bound⟩) bound slave len most arrives
    stream
  refine ⟨left, arrived, ?_⟩
  have request : sendRead addr count bound s =
      .ok () (s.requested (readRequest s.cfg.slaveAddr addr count) tx ⟨.read count, bound⟩) := by
    rw [sendRead, inspect_bind, sent, readRequest]
  rw [memRead, engine_bind_ok request, received]
  rfl

/-- One segment: `k = min(REM, 125)` words from `CUR` on, at their place. -/
theorem readSegment_readReply {total : BitVec 17} {s : State} {addr rem : Nat} {sl : Byte} {dev : Nat → Word}
    {txs : List TxAnswer} {es rest : List RxStep} {more : List Byte} (bound : Rat) (pos : 0 < rem)
    (range : addr + rem ≤ 65536) (cur : s.cur.toNat = addr) (remaining : s.rem.toNat = rem) (slave : s.AcceptsSlave sl)
    (answer : s.env.tx = .ok :: txs) (stream : s.env.rx = es ++ rest)
    (arrives : Arrives es (readReply sl (deviceWords dev addr (min rem 125)) ++ more)) :
    ∃ left inner, Arrives left more ∧ inner.cur.toNat = addr + min rem 125 ∧ inner.rem.toNat = rem - min rem 125 ∧
      readSegment total bound s = .ok () (s.delivered (total.toNat - rem) (deviceWords dev addr (min rem 125)) 1
        (readRequest s.cfg.slaveAddr (BitVec.ofNat 16 addr) (BitVec.ofNat 16 (min rem 125))) txs (left ++ rest)
        inner) := by
  have start : s.cur.setWidth 16 = BitVec.ofNat 16 addr := by
    apply BitVec.eq_of_toNat_eq
    simp [cur]
  have count : (BitVec.ofNat 16 (min rem 125)).toNat = min rem 125 := by simp
  obtain ⟨left, arrived, read⟩ := memRead_readReply (s := { s with busy := true, segcnt := s.segcnt + 1 })
    (addr := BitVec.ofNat 16 addr) (count := BitVec.ofNat 16 (min rem 125)) bound slave (by simp [count]) (by simp)
    answer stream arrives
  refine ⟨left, { s with
    busy := true, seq := .nextSeg, cur := s.cur + BitVec.ofNat 17 (min rem 125)
    rem := s.rem - BitVec.ofNat 17 (min rem 125)
    rxacc := accumulate [] (readReply sl (deviceWords dev addr (min rem 125)))
    pend := some ⟨.read (BitVec.ofNat 16 (min rem 125)), bound⟩ }, arrived, ?_, ?_, ?_⟩
  · simp only [BitVec.toNat_add, BitVec.toNat_ofNat, cur]
    omega
  · simp only [BitVec.toNat_sub, BitVec.toNat_ofNat, remaining]
    omega
  · simp only [readSegment, inspect_bind, startTransaction_bind, remaining, start, maxRd]
    rw [engine_bind_ok read]
    rfl

/-- The remaining segments, `fuel` of them, from `CUR` on. -/
theorem readSegments_segmentReplies {total : BitVec 17} (bound : Rat) (sl : Byte) (dev : Nat → Word)
    (txs : List TxAnswer) (rest : List RxStep) (fuel : Nat) : ∀ (s : State) (addr rem : Nat) (es : List RxStep),
    (rem + 124) / 125 = fuel → addr + rem ≤ 65536 → rem ≤ total.toNat → s.cur.toNat = addr → s.rem.toNat = rem →
    s.AcceptsSlave sl → s.env.tx = List.replicate fuel .ok ++ txs → s.env.rx = es ++ rest →
    Arrives es (segmentReplies sl dev addr rem) →
    ∃ left inner, Arrives left [] ∧ readSegments total bound fuel s =
      .ok () (s.delivered (total.toNat - rem) (deviceWords dev addr rem) fuel
        (segmentRequests s.cfg.slaveAddr addr rem) txs (left ++ rest) inner) := by
  induction fuel with
  | zero =>
    intro s addr rem es count _ _ _ _ _ answers stream arrives
    obtain rfl : rem = 0 := by omega
    refine ⟨es, s, by simpa [segmentReplies] using arrives, ?_⟩
    have same := State.delivered_nil (tx := txs) (by simpa using answers) stream total.toNat
    simp [readSegments, segmentRequests, deviceWords, same]
  | succ fuel ih =>
    intro s addr rem es count range within cur remaining slave answers stream arrives
    have pos : 0 < rem := by omega
    have running : ¬ s.rem = 0 := fun zero => by simp [zero] at remaining; omega
    rw [List.replicate_succ, List.cons_append] at answers
    rw [segmentReplies_of_pos sl dev addr pos] at arrives
    obtain ⟨middle, inner, arrived, cur', remaining', first⟩ := readSegment_readReply (total := total) bound pos range
      cur remaining slave answers stream arrives
    obtain ⟨left, last, emptied, others⟩ := ih
      (s.delivered (total.toNat - rem) (deviceWords dev addr (min rem 125)) 1
        (readRequest s.cfg.slaveAddr (BitVec.ofNat 16 addr) (BitVec.ofNat 16 (min rem 125)))
        (List.replicate fuel .ok ++ txs) (middle ++ rest) inner)
      (addr + min rem 125) (rem - min rem 125) middle (by omega) (by omega) (by omega) cur' remaining' slave rfl rfl
      arrived
    have place : total.toNat - (rem - min rem 125) =
        total.toNat - rem + (deviceWords dev addr (min rem 125)).length := by
      rw [deviceWords_length]
      omega
    refine ⟨left, last, emptied, ?_⟩
    rw [readSegments, inspect_bind, if_neg running, engine_bind_ok first, others, place, State.delivered_delivered,
      deviceWords_append, Nat.add_sub_cancel' (Nat.min_le_left rem 125), segmentRequests_of_pos _ addr pos,
      Nat.add_comm 1 fuel]
    rfl

/-- RD.BUF against a device with any contents, in any cutting of its answers. -/
theorem opRdBuf_segmentReplies {s : State} {addr : Word} {total : Nat} {sl : Byte} {dev : Nat → Word}
    {txs : List TxAnswer} {es rest : List RxStep} (tmo : Option Rat) (range : addr.toNat + total ≤ 65536)
    (link : s.link = true) (slave : s.AcceptsSlave sl)
    (answers : s.env.tx = List.replicate ((total + 124) / 125) .ok ++ txs) (stream : s.env.rx = es ++ rest)
    (arrives : Arrives es (segmentReplies sl dev addr.toNat total)) :
    ∃ left inner, Arrives left [] ∧ opRdBuf addr total tmo s =
      .ok () ({ ({ s with segcnt := 0 } : State).delivered 0 (deviceWords dev addr.toNat total) ((total + 124) / 125)
        (segmentRequests s.cfg.slaveAddr addr.toNat total) txs (left ++ rest) inner with
          rdcnt := BitVec.ofNat 17 total } : State).finished := by
  have count : (BitVec.ofNat 17 total).toNat = total := by simp; omega
  have start : (addr.setWidth 17).toNat = addr.toNat := by simp; omega
  obtain ⟨left, inner, emptied, read⟩ := readSegments_segmentReplies (total := BitVec.ofNat 17 total) (s.bound tmo) sl
    dev txs rest ((total + 124) / 125)
    { s with rdcnt := 0, segcnt := 0, busy := true, cur := addr.setWidth 17, rem := BitVec.ofNat 17 total }
    addr.toNat total es rfl range (le_of_eq count.symm) start count slave answers stream arrives
  refine ⟨left, inner, emptied, ?_⟩
  rw [opRdBuf, inspect_bind]
  refine onFault_ok ?_
  rw [update_bind, checkAddr_bind, if_pos range, checkLink_bind, if_pos link, update_bind, segmentCount,
    engine_bind_ok read, count, Nat.sub_self]
  rfl

/-! ### RD.PROF -/

theorem opProfDec_wordsToBytes {s : State} {k n : Nat} {ws : List Word} (range : k < s.nSlots)
    (valid : s.slotValid k = true) (cells : sRead (s.slotRegs k).nVol = n) (cPrf : sRead (s.slotRegs k).cPrf ≠ 0)
    (nAvg : 0 < sRead (s.slotRegs k).nAvg) (len : ws.length = 11 + 4 * n) :
    opProfDec (wordsToBytes ws) k s =
      .ok () { s with
        pr := profileRecord s.cfg (s.slotRegs k) ws, prv := true, gt := profileGains s.cfg (s.slotRegs k) ws
        status := 0 } := by
  have size : 0 ≤ sRead (s.slotRegs k).nVol ∧
      ((wordsToBytes ws).length : Int) = profileBytes (sRead (s.slotRegs k).nVol) := by
    rw [cells, wordsToBytes_length, len, profileBytes, profileHeadWords]
    omega
  rw [opProfDec, checkSlot_bind, if_pos range, checkLoaded_bind, if_pos valid, inspect_bind, require_bind, if_pos size,
    require_bind, if_pos ⟨cPrf, nAvg⟩, bytesToWords_wordsToBytes]
  rfl

theorem exec_rdProf_of_read {s t u : State} {k total : Nat} {a : Word} {ws : List Word} (range : k < s.nSlots)
    (valid : s.slotValid k = true) (asked : s.profileTotal k = total)
    (read : opRdBuf a total none { s with draws := s.draws + 1 } = .ok () t)
    (words : cellsReadAll t.rdb 0 t.rdcnt.toNat = ws) (decoded : opProfDec (wordsToBytes ws) k t = .ok () u) :
    exec (.rdProf k a) s = .next u := by
  rw [exec_rdProf, runOp_opRdProf range valid, asked, opReadAndDecode, runOp, engine_bind_ok read, inspect_bind, words,
    decoded]

/-- Settles O41: RD.BUF leaves the block in RDB, from where PROF.DEC decodes it. -/
theorem profileTransfer : Obligations.ProfileTransfer := by
  intro s k a n sl dev txs es rest range valid cells cPrf nAvg fits link slave answers stream arrives canonical
  obtain ⟨left, inner, emptied, read⟩ := opRdBuf_segmentReplies (s := { s with draws := s.draws + 1 }) none fits link
    slave answers stream arrives
  generalize block : deviceWords dev a.toNat (11 + 4 * n) = ws at read ⊢
  have len : ws.length = 11 + 4 * n := by rw [← block, deviceWords_length]
  have count : (BitVec.ofNat 17 (11 + 4 * n)).toNat = 11 + 4 * n := by simp; omega
  have words : cellsReadAll (cellsWriteAll s.rdb 0 ws) 0 (BitVec.ofNat 17 (11 + 4 * n)).toNat = ws := by
    rw [count, ← len]
    exact cellsReadAll_writeAll ws s.rdb 0 canonical
  have total : s.profileTotal k = 11 + 4 * n := State.profileTotal_eq (by rw [cells]; omega)
  have ended := exec_rdProf_of_read range valid total read words
    (opProfDec_wordsToBytes range valid cells cPrf nAvg len)
  refine ⟨_, ended, rfl, rfl, rfl, rfl, ?same, rfl, ?inside, ?outside, ?_, ⟨rfl, rfl, rfl⟩, ?segcnt, rfl, rfl, left,
    emptied, rfl⟩
  case same => constructor <;> and_intros <;> rfl
  case inside =>
    intro j inside
    have delivered : cellsRead (cellsWriteAll s.rdb 0 ws) (0 + j) = ws.getD j 0 :=
      cellsRead_writeAll ws s.rdb 0 j canonical (by omega)
    rwa [Nat.zero_add, ← block, deviceWords_getD dev _ inside, block] at delivered
  case outside => exact fun j outside => cellsRead_writeAll_other ws s.rdb 0 j (.inr (by omega))
  case segcnt => exact BitVec.zero_add _
  and_intros <;> rfl

end Sys2Proof.Machine

/-! The CRC engine (40_crc.md R141 to R151). `crcStep` is eight shift steps, `crcShift` is linear and injective, and a
shift step of a word whose lowest bit is 0 is a shift; the table form, the residue and the error detection follow. -/

namespace Sys2Proof.Machine

/-! ### The octets of a word -/

@[simp] theorem hi8_ofOctets (hi lo : Byte) : hi8 (ofOctets hi lo) = hi := BitVec.extractLsb'_append_eq_left

@[simp] theorem lo8_ofOctets (hi lo : Byte) : lo8 (ofOctets hi lo) = lo := BitVec.extractLsb'_append_eq_right

theorem eq_ofOctets_iff (w : Word) (hi lo : Byte) : w = ofOctets hi lo ↔ lo8 w = lo ∧ hi8 w = hi := by
  constructor
  · rintro rfl
    exact ⟨lo8_ofOctets hi lo, hi8_ofOctets hi lo⟩
  · rintro ⟨rfl, rfl⟩
    exact (ofOctets_hi8_lo8 w).symm

theorem setWidth_eq_ofOctets (b : Byte) : b.setWidth 16 = ofOctets 0 b := BitVec.setWidth_eq_append (by decide)

theorem ofOctets_xor (hi lo hi' lo' : Byte) :
    ofOctets hi lo ^^^ ofOctets hi' lo' = ofOctets (hi ^^^ hi') (lo ^^^ lo') := BitVec.xor_append

theorem ofOctets_ushiftRight_eight (hi lo : Byte) : ofOctets hi lo >>> 8 = ofOctets 0 hi := by
  apply BitVec.eq_of_getLsbD_eq
  intro i _
  rw [BitVec.getLsbD_ushiftRight, ofOctets, ofOctets, BitVec.getLsbD_append, BitVec.getLsbD_append]
  by_cases inLow : i < 8
  · simp [inLow]
  · simp [inLow, BitVec.getLsbD_of_ge hi i (Nat.not_lt.1 inLow)]

theorem lo8_xor (v w : Word) : lo8 (v ^^^ w) = lo8 v ^^^ lo8 w := BitVec.extractLsb'_xor

/-! ### Shift steps (R141) -/

theorem crcShift_eq_xor (c : Word) : crcShift c = c >>> 1 ^^^ if c.getLsbD 0 then crcPoly else 0 := by
  unfold crcShift
  split <;> simp

theorem crcShift_xor (x y : Word) : crcShift (x ^^^ y) = crcShift x ^^^ crcShift y := by
  have polys : (if (x ^^^ y).getLsbD 0 then crcPoly else 0) =
      (if x.getLsbD 0 then crcPoly else 0) ^^^ if y.getLsbD 0 then crcPoly else 0 := by
    rw [BitVec.getLsbD_xor]
    cases x.getLsbD 0 <;> cases y.getLsbD 0 <;> simp
  rw [crcShift_eq_xor, crcShift_eq_xor, crcShift_eq_xor, BitVec.ushiftRight_xor_distrib, polys]
  ac_rfl

theorem crcShift_of_even {c : Word} (even : c.getLsbD 0 = false) : crcShift c = c >>> 1 := by
  rw [crcShift, even, if_neg Bool.false_ne_true]

/-- The top bit of the result is the bit that was shifted out. -/
theorem getLsbD_crcShift_top (c : Word) : (crcShift c).getLsbD 15 = c.getLsbD 0 := by
  rw [crcShift_eq_xor]
  cases c.getLsbD 0 <;> simp [crcPoly]

theorem crcShift_injective : Function.Injective crcShift := by
  intro x y same
  have lowest : x.getLsbD 0 = y.getLsbD 0 := by rw [← getLsbD_crcShift_top, same, getLsbD_crcShift_top]
  have others : x >>> 1 = y >>> 1 := by
    simpa only [crcShift_eq_xor, lowest, BitVec.xor_left_inj] using same
  apply BitVec.eq_of_getLsbD_eq
  intro i _
  cases i with
  | zero => exact lowest
  | succ i => simpa [Nat.add_comm] using congrArg (·.getLsbD i) others

theorem crcShift_iterate_xor (n : Nat) (x y : Word) : crcShift^[n] (x ^^^ y) = crcShift^[n] x ^^^ crcShift^[n] y :=
  Function.Semiconj₂.iterate (op := (· ^^^ ·)) crcShift_xor n x y

/-- As long as zeros are shifted out, a shift step only shifts. -/
theorem crcShift_iterate_of_low_zero (n : Nat) (x : Word) (zeros : ∀ i < n, x.getLsbD i = false) :
    crcShift^[n] x = x >>> n := by
  induction n generalizing x with
  | zero => simp
  | succ n ih =>
    have even : crcShift x = x >>> 1 := crcShift_of_even (zeros 0 n.succ_pos)
    rw [Function.iterate_succ_apply, even, ih, ← BitVec.shiftRight_add, Nat.add_comm]
    intro i below
    rw [BitVec.getLsbD_ushiftRight, Nat.add_comm]
    exact zeros (i + 1) (Nat.succ_lt_succ below)

/-! ### Byte steps (R142) and the table form (R143) -/

theorem crcStep_eq_iterate (c : Word) (b : Byte) : crcStep c b = crcShift^[8] (c ^^^ b.setWidth 16) := rfl

theorem crcTable_eq_iterate (b : Byte) : crcTable b = crcShift^[8] (ofOctets 0 b) := by
  rw [crcTable, crcStep_eq_iterate, setWidth_eq_ofOctets]
  exact congrArg crcShift^[8] BitVec.zero_xor

@[simp] theorem crcTable_zero : crcTable 0 = 0 := by decide

theorem crcShift_iterate_high (hi : Byte) : crcShift^[8] (ofOctets hi 0) = ofOctets 0 hi := by
  rw [crcShift_iterate_of_low_zero, ofOctets_ushiftRight_eight]
  intro i below
  rw [ofOctets, BitVec.getLsbD_append, if_pos below]
  exact BitVec.getLsbD_zero

/-- The high octet is shifted down, the low octet selects an entry of the table. -/
theorem crcShift_iterate_eight (w : Word) : crcShift^[8] w = w >>> 8 ^^^ crcTable (lo8 w) := by
  have octets : ofOctets (hi8 w) 0 ^^^ ofOctets 0 (lo8 w) = w := by rw [ofOctets_xor]; simp
  have shifted : w >>> 8 = ofOctets 0 (hi8 w) := by
    rw [← ofOctets_ushiftRight_eight _ (lo8 w), ofOctets_hi8_lo8]
  calc crcShift^[8] w = crcShift^[8] (ofOctets (hi8 w) 0 ^^^ ofOctets 0 (lo8 w)) := by rw [octets]
    _ = w >>> 8 ^^^ crcTable (lo8 w) := by
      rw [crcShift_iterate_xor, crcShift_iterate_high, crcTable_eq_iterate, shifted]

theorem crcStep_eq_table (c : Word) (b : Byte) : crcStep c b = c >>> 8 ^^^ crcTable (lo8 (c ^^^ b.setWidth 16)) := by
  have byteGone : b.setWidth 16 >>> 8 = 0#16 := by rw [setWidth_eq_ofOctets]; exact ofOctets_ushiftRight_eight 0 b
  rw [crcStep_eq_iterate, crcShift_iterate_eight, BitVec.ushiftRight_xor_distrib, byteGone, BitVec.xor_zero]

theorem crcStep_eq_tableStep (c : Word) (b : Byte) : crcStep c b = crcTableStep c b := by
  rw [crcStep_eq_table, crcTableStep, setWidth_eq_ofOctets, lo8_xor, lo8_ofOctets]

/-- Settles O18: the word before the eight shift steps is its high octet and its low octet, and the steps are linear. -/
theorem crcTableForm : Obligations.CrcTableForm := by
  have folds : crcStep = crcTableStep := funext₂ crcStep_eq_tableStep
  exact ⟨crcStep_eq_table, fun c d => by rw [crcFold, folds]⟩

/-! ### Different registers and different bytes stay apart -/

theorem crcStep_left_injective (b : Byte) : Function.Injective (crcStep · b) := by
  intro c c' same
  exact (BitVec.xor_left_inj _).1 (crcShift_injective.iterate 8 same)

theorem crcStep_right_injective (c : Word) : Function.Injective (crcStep c) := by
  intro b b' same
  have wide : c ^^^ b.setWidth 16 = c ^^^ b'.setWidth 16 := crcShift_injective.iterate 8 same
  simpa [setWidth_eq_ofOctets, eq_ofOctets_iff] using (BitVec.xor_right_inj _).1 wide

theorem crcFold_cons (c : Word) (b : Byte) (d : List Byte) : crcFold c (b :: d) = crcFold (crcStep c b) d := rfl

theorem crcFold_append (c : Word) (d e : List Byte) : crcFold c (d ++ e) = crcFold (crcFold c d) e :=
  List.foldl_append

theorem crcFold_injective (d : List Byte) : Function.Injective (crcFold · d) := by
  induction d with
  | nil => exact fun _ _ => id
  | cons b d ih => exact ih.comp (crcStep_left_injective b)

/-- Overwriting one byte with another changes the register after the string. -/
theorem crcFold_set_ne (d : List Byte) (c : Word) (i : Nat) (b : Byte) (inside : i < d.length) (other : b ≠ d[i]) :
    crcFold c (d.set i b) ≠ crcFold c d := by
  induction d generalizing c i with
  | nil => exact absurd inside (Nat.not_lt_zero i)
  | cons a d ih =>
    cases i with
    | zero => exact fun same => other (crcStep_right_injective c (crcFold_injective d same))
    | succ i => exact ih (crcStep c a) i (Nat.lt_of_succ_lt_succ inside) other

theorem xor_bit_ne (b : Byte) {k : Nat} (bit : k < 8) : b ^^^ 1#8 <<< k ≠ b := by
  intro same
  have flipped := congrArg (·.getLsbD k) same
  simp [bit] at flipped

theorem crc16_flipBit_ne (d : List Byte) (i k : Nat) (inside : i < d.length) (bit : k < 8) :
    crc16 (flipBit d i k) ≠ crc16 d := by
  refine crcFold_set_ne d crcInitValue i _ inside ?_
  have here : byteAt d i = d[i] := List.getD_eq_getElem d 0 inside
  rw [here]
  exact xor_bit_ne d[i] bit

/-! ### The residue (R151) -/

theorem crcStep_ofOctets_low (hi lo : Byte) : crcStep (ofOctets hi lo) lo = ofOctets 0 hi := by
  have cleared : ofOctets hi lo ^^^ lo.setWidth 16 = ofOctets hi 0 := by
    rw [setWidth_eq_ofOctets, ofOctets_xor]
    simp
  rw [crcStep_eq_iterate, cleared, crcShift_iterate_high]

theorem crcFold_octets (hi lo : Byte) : crcFold (ofOctets hi lo) [lo, hi] = 0 := by
  rw [crcFold_cons, crcStep_ofOctets_low, crcFold_cons, crcStep_ofOctets_low]
  rfl

/-- Two bytes bring the register to 0 exactly where they are its octets, low octet first. -/
theorem crcFold_pair_eq_zero_iff (c : Word) (lo hi : Byte) : crcFold c [lo, hi] = 0 ↔ lo8 c = lo ∧ hi8 c = hi := by
  rw [← eq_ofOctets_iff]
  exact (crcFold_injective [lo, hi]).eq_iff' (crcFold_octets hi lo)

theorem crc16_append_pair_eq_zero_iff (d : List Byte) (lo hi : Byte) :
    crc16 (d ++ [lo, hi]) = 0 ↔ lo8 (crc16 d) = lo ∧ hi8 (crc16 d) = hi := by
  rw [crc16, crcFold_append]
  exact crcFold_pair_eq_zero_iff (crc16 d) lo hi

theorem crc16_sealed (d : List Byte) : crc16 (d ++ [lo8 (crc16 d), hi8 (crc16 d)]) = 0 :=
  (crc16_append_pair_eq_zero_iff d _ _).2 ⟨rfl, rfl⟩

/-- Settles O21: the appended octets are those that bring the register to 0. -/
theorem crcResidue : Obligations.CrcResidue :=
  ⟨crc16_sealed, ⟨[], [0], by decide +kernel⟩, by decide +kernel⟩

/-! ### CRC.CHECK (R149, R150) -/

theorem exec_crcCheck {f : List Byte} (enough : 2 ≤ f.length) (s : State) :
    exec (.crcCheck f) s = .next { s with eqf := crcCheck f, status := 0 } := by
  have run : opCrcCheck f s = .ok () { s with eqf := crcCheck f, status := 0 } := by
    rw [opCrcCheck, require_bind, if_pos enough]
    rfl
  exact congrArg Host.Outcome.next (runOp_ok run)

theorem exec_crcCheck_short {f : List Byte} (short : f.length < 2) (s : State) :
    exec (.crcCheck f) s = .next (s.raise .shortFrame f.length 0) := by
  have run : opCrcCheck f s = .error () (s.raise .shortFrame f.length 0) := by
    rw [opCrcCheck, require_bind, if_neg (Nat.not_le.2 short)]
  exact congrArg Host.Outcome.next (runOp_error run)

theorem crcMatches_eq_decide (c : Word) (lo hi : Byte) :
    crcMatches c lo hi = decide (lo8 c = lo ∧ hi8 c = hi) := by
  simp only [crcMatches, Bool.decide_and, beq_eq_decide, eq_comm (a := lo), eq_comm (a := hi)]

theorem crcCheck_append_pair (body : List Byte) (lo hi : Byte) :
    crcCheck (body ++ [lo, hi]) = decide (lo8 (crc16 body) = lo ∧ hi8 (crc16 body) = hi) := by
  have low : byteAt (body ++ [lo, hi]) body.length = lo := byteAt_append_right body [lo, hi] 0
  have high : byteAt (body ++ [lo, hi]) (body.length + 1) = hi := byteAt_append_right body [lo, hi] 1
  have size : (body ++ [lo, hi]).length = body.length + 2 := List.length_append
  simp only [crcCheck, size, Nat.add_sub_cancel, Nat.reduceSubDiff, List.take_left, low, high, crcMatches_eq_decide]

/-- Settles O19: the octets at the end of the string are compared with those of the CRC of the rest. -/
theorem crcCheckResult : Obligations.CrcCheckResult := by
  refine ⟨fun s body lo hi => ?_, fun s f short => exec_crcCheck_short short s⟩
  rw [exec_crcCheck (by simp), crcCheck_append_pair]

theorem exists_append_pair {f : List Byte} (enough : 2 ≤ f.length) : ∃ body lo hi, f = body ++ [lo, hi] := by
  have two : (f.drop (f.length - 2)).length = 2 := by rw [List.length_drop]; omega
  obtain ⟨lo, hi, last⟩ := List.length_eq_two.1 two
  exact ⟨f.take (f.length - 2), lo, hi, by rw [← last, List.take_append_drop]⟩

/-- CRC.CHECK says whether the residue is 0. -/
theorem exec_crcCheck_residue {f : List Byte} (enough : 2 ≤ f.length) (s : State) :
    exec (.crcCheck f) s = .next { s with eqf := decide (crc16 f = 0), status := 0 } := by
  obtain ⟨body, lo, hi, rfl⟩ := exists_append_pair enough
  simp only [crcCheckResult.1, crc16_append_pair_eq_zero_iff]

/-- Settles O20: a sealed string has residue 0, and a flipped bit anywhere changes the CRC, so also the residue. -/
theorem sealPassesFlipFails : Obligations.SealPassesFlipFails := by
  refine ⟨fun s d => ?passes, crc16_flipBit_ne, fun s d i k inside bit => ?fails⟩
  case passes => rw [exec_crcCheck_residue (by simp), crc16_sealed, decide_eq_true rfl]
  case fails =>
    have changed := crc16_flipBit_ne (d ++ [lo8 (crc16 d), hi8 (crc16 d)]) i k (by simpa using inside) bit
    rw [crc16_sealed] at changed
    rw [exec_crcCheck_residue (by simp [flipBit]), decide_eq_false changed]

/-! ### CRC.COMPUTE, CRC.INIT, CRC.UPDATE and CRC.READ (R145 to R148) -/

theorem exec_crcInit (s : State) : exec .crcInit s = .next { s with crcr := crcInitValue, status := 0 } := rfl

theorem exec_crcUpdate (b : Byte) (s : State) :
    exec (.crcUpdate b) s = .next { s with crcr := crcStep s.crcr b, status := 0 } := rfl

/-- Settles O16: each operation is one write; the values of R145 are computed. -/
theorem crcRegisterOps : Obligations.CrcRegisterOps :=
  ⟨fun _ _ => rfl, exec_crcInit, fun _ => rfl, rfl, by decide, by decide, by decide +kernel⟩

/-- Besides CRC.INIT, an instruction folds into CRCR the byte that it feeds, if any. -/
theorem exec_crcr_eq_fold {i : Instr} {s t : State} (notInit : i ≠ .crcInit) (h : exec i s = .next t) :
    t.crcr = crcFold s.crcr (updateBytes [i]) := by
  by_cases feeds : ∃ b, i = .crcUpdate b
  · obtain ⟨b, rfl⟩ := feeds
    cases h
    rfl
  · have silent : updateBytes [i] = [] := by
      cases i with
      | crcUpdate b => exact absurd ⟨b, rfl⟩ feeds
      | _ => rfl
    rw [silent]
    exact crcRegisterWriters i s t notInit (not_exists.1 feeds) h

theorem updateBytes_cons (i : Instr) (is : List Instr) : updateBytes (i :: is) = updateBytes [i] ++ updateBytes is := by
  cases i <;> rfl

theorem execAll_crcr_eq_fold {is : List Instr} {s t : State} (notInit : .crcInit ∉ is) (h : execAll is s = .next t) :
    t.crcr = crcFold s.crcr (updateBytes is) := by
  induction is generalizing s with
  | nil =>
    cases h
    rfl
  | cons i is ih =>
    obtain ⟨first, others⟩ := not_or.1 (mt List.mem_cons.2 notInit)
    obtain ⟨u, hu, -⟩ := exec_performs i s
    rw [execAll, hu] at h
    rw [ih others h, exec_crcr_eq_fold (Ne.symm first) hu, ← crcFold_append, ← updateBytes_cons]

/-- Settles O17: CRC.INIT sets the register, every other instruction folds into it what it feeds. -/
theorem crcStreaming : Obligations.CrcStreaming := by
  refine ⟨fun s b => exec_crcUpdate b s, fun is s t notInit h => ?_⟩
  rw [execAll, exec_crcInit] at h
  exact execAll_crcr_eq_fold notInit h

end Sys2Proof.Machine

/-! The registers of the transport unit, the link, and the operations refused before a byte is sent (41_transport.md
R162, R163, R196 to R199). -/

namespace Sys2Proof.Machine

/-! ### CSR.RD and CSR.WR (R198, R199) -/

theorem exec_csrRd (r : Byte) (s : State) : exec (.csrRd r) s = .next (runOp (opCsrRd r) s) := rfl

theorem exec_csrWr (r : Byte) (x : Rat) (s : State) : exec (.csrWr r x) s = .next (runOp (opCsrWr r x) s) := rfl

theorem exec_csrRd_some {r : Byte} {s : State} {x : Rat} (h : csrValue r s = some x) :
    exec (.csrRd r) s = .next { s with scr := x } := by
  rw [exec_csrRd, opCsrRd, runOp_inspect_bind, h]
  rfl

theorem exec_csrRd_none {r : Byte} {s : State} (h : csrValue r s = none) :
    exec (.csrRd r) s = .next (s.raise .badCsr r.toNat 0) := by
  rw [exec_csrRd, opCsrRd, runOp_inspect_bind, h]
  rfl

theorem csrValue_eq_none {r : Byte} (past : 0x10 < r.toNat) (s : State) : csrValue r s = none := by
  unfold csrValue
  split
  case h_18 => rfl
  all_goals omega

/-- Settles O34: a number of the table has its register's value, any other has none; only 0x03 is written. -/
theorem registerAccess : Obligations.RegisterAccess := by
  refine ⟨fun s r x mem => exec_csrRd_some ?_, fun s r past => exec_csrRd_none (csrValue_eq_none past s),
    fun s x => rfl, fun s r x other => ?_⟩
  · simp only [List.mem_cons, Prod.mk.injEq, List.not_mem_nil, or_false] at mem
    rcases mem with ⟨rfl, rfl⟩ | ⟨rfl, rfl⟩ | ⟨rfl, rfl⟩ | ⟨rfl, rfl⟩ | ⟨rfl, rfl⟩ | ⟨rfl, rfl⟩ | ⟨rfl, rfl⟩ |
      ⟨rfl, rfl⟩ | ⟨rfl, rfl⟩ | ⟨rfl, rfl⟩ | ⟨rfl, rfl⟩ | ⟨rfl, rfl⟩ | ⟨rfl, rfl⟩ | ⟨rfl, rfl⟩ | ⟨rfl, rfl⟩ |
      ⟨rfl, rfl⟩ | ⟨rfl, rfl⟩
    all_goals rfl
  · rw [exec_csrWr, opCsrWr, runOp, require_bind, if_neg other]

/-! ### LINK.OPEN and LINK.CLOSE (R196, R197) -/

theorem exec_linkOpen (s : State) : exec .linkOpen s = .next (runOp opLinkOpen s) := rfl

theorem opLinkOpen_apply (s : State) :
    opLinkOpen s =
      if s.openAnswer.ok = true then .ok () { s.openDrawn with link := s.openAnswer.ok, status := 0 }
      else .error () (({ s.openDrawn with link := s.openAnswer.ok } : State).raise .openFail 0 0) := by
  rw [opLinkOpen, inspect_bind, update_bind, require_bind]
  rfl

/-- Settles O35: the answer decides LINK.OPEN; LINK.CLOSE is one write of constants. -/
theorem linkOperations : Obligations.LinkOperations := by
  refine ⟨fun s opens => ?_, fun s fails => ?_, fun _ => rfl, fun _ => rfl⟩
  · rw [exec_linkOpen, runOp, opLinkOpen_apply, if_pos opens, opens]
  · rw [exec_linkOpen, runOp, opLinkOpen_apply, if_neg (by simp [fails]), fails]

/-! ### Refused operands and a closed link (R162, R163) -/

theorem exec_rdBuf (addr : Word) (total : BitVec 17) (tmo : Option Rat) (s : State) :
    exec (.rdBuf addr total tmo) s = .next (runOp (opRdBuf addr total.toNat tmo) s) := rfl

/-- The checks of RD.W in their order. -/
theorem beginRead_apply (addr count : Word) (bound : Rat) (s : State) :
    beginRead addr count bound s =
      if 1 ≤ count.toNat ∧ count.toNat ≤ 125 then
        if addr.toNat + count.toNat ≤ 65536 then
          if s.link = true then
            (startTransaction >>= fun _ => sendRead addr count bound) ({ s with rdcnt := 0, segcnt := 0 } : State)
          else .error () (({ s with rdcnt := 0, segcnt := 0 } : State).raise .linkNotOpen 0 0)
        else .error () (({ s with rdcnt := 0, segcnt := 0 } : State).raise .addrRange addr.toNat count.toNat)
      else .error () (({ s with rdcnt := 0, segcnt := 0 } : State).raise .countRange count.toNat 0) := by
  simp only [beginRead, update_bind, checkCount_bind, checkAddr_bind, checkLink_bind]
  rfl

/-- The checks of a write in their order. -/
theorem beginWrite_apply (addr : Word) (v : List Word) (bound : Rat) (s : State) :
    beginWrite addr v bound s =
      if 1 ≤ v.length ∧ v.length ≤ 123 then
        if addr.toNat + v.length ≤ 65536 then
          if s.link = true then
            (startTransaction >>= fun _ => sendWrite addr v bound) ({ s with segcnt := 0 } : State)
          else .error () (({ s with segcnt := 0 } : State).raise .linkNotOpen 0 0)
        else .error () (({ s with rdcnt := 0, segcnt := 0 } : State).raise .addrRange addr.toNat v.length)
      else .error () (({ s with rdcnt := 0, segcnt := 0 } : State).raise .countRange v.length 0) := by
  simp only [beginWrite, update_bind, checkWrite_bind, checkLink_bind]

theorem opRdBuf_linkNotOpen {addr : Word} {total : Nat} {s : State} (range : addr.toNat + total ≤ 65536)
    (closed : s.link = false) (tmo : Option Rat) :
    opRdBuf addr total tmo s =
      .error () (({ s with rdcnt := 0, segcnt := 0 } : State).raise .linkNotOpen 0 0).readFailed := by
  rw [opRdBuf, inspect_bind]
  refine onFault_error ?_
  rw [update_bind, checkAddr_bind, if_pos range, checkLink_bind, if_neg (by simp [closed])]

/-- WR.W and WR.BUF have one meaning. -/
theorem exec_write {i : Instr} {addr : Word} {v : List Word} {tmo : Option Rat}
    (write : i = .wrW addr v tmo ∨ i = .wrBuf addr v tmo) (s : State) :
    exec i s = .next (runOp (opWrW addr v tmo) s) := by
  rcases write with rfl | rfl <;> rfl

/-- Settles O22: the checks in their order, each under the ones before it. -/
theorem transportRefusals : Obligations.TransportRefusals := by
  intro s addr count total v tmo
  have read {t : State} (h : beginRead addr count (s.bound tmo) s = .error () t) :
      exec (.rdW addr count tmo) s = .next t.readFailed := by
    rw [exec_rdW, runOp_opRdW_of_beginRead_error h]
  refine ⟨fun fits => read ?_, fun fits range => read ?_, fun fits range closed => read ?_, fun range => ?_,
    fun range closed => ?_, fun i write => ?_⟩
  · rw [beginRead_apply, if_neg fits]
  · rw [beginRead_apply, if_pos fits, if_neg (by omega)]
  · rw [beginRead_apply, if_pos fits, if_pos range, if_neg (by simp [closed])]
  · rw [exec_rdBuf, runOp_error (opRdBuf_addrRange range tmo s)]
  · rw [exec_rdBuf, runOp_error (opRdBuf_linkNotOpen range closed tmo)]
  · have refused {t : State} (h : beginWrite addr v (s.bound tmo) s = .error () t) : exec i s = .next t := by
      rw [exec_write write, runOp_opWrW_of_beginWrite_error h]
    refine ⟨fun fits => refused ?_, fun fits range => refused ?_, fun fits range closed => refused ?_⟩
    · rw [beginWrite_apply, if_neg fits]
    · rw [beginWrite_apply, if_pos fits, if_neg (by omega)]
    · rw [beginWrite_apply, if_pos fits, if_pos range, if_neg (by simp [closed])]

end Sys2Proof.Machine

/-! A low-level read over given answers takes its bytes from the front of the stream (41_transport.md R165, R168). -/

namespace Sys2Proof.Machine

/-- The loop of `Rx` neither loses nor reorders bytes: what it took, and then what it left. -/
theorem rxLoop_streamBytes (n : Nat) (es : List RxStep) : ∀ acc, acc.length < n →
    match rxLoop n acc es with
    | .full b rest | .timeout b rest | .closed b rest => b ++ streamBytes rest = acc ++ streamBytes es
    | .waiting b => b = acc ++ streamBytes es := by
  induction es with
  | nil => intro acc _; simp [rxLoop, streamBytes]
  | cons e es ih =>
    intro acc short
    obtain ⟨a, x⟩ := e
    cases a with
    | closed => simp [rxLoop, streamBytes]
    | none =>
      cases x with
      | true => simp [rxLoop, streamBytes]
      | false => simpa [rxLoop, streamBytes] using ih acc short
    | data bs =>
      simp only [rxLoop, streamBytes]
      by_cases enough : (acc ++ bs.take (n - acc.length)).length = n
      · rw [if_pos enough]
        by_cases emptied : bs.drop (n - acc.length) = []
        · have all : bs.take (n - acc.length) = bs := by
            simpa [emptied] using List.take_append_drop (n - acc.length) bs
          simp [emptied, all]
        · simp only [if_neg emptied, streamBytes]
          rw [List.append_assoc, ← List.append_assoc (bs.take _), List.take_append_drop]
      · have few : (acc ++ bs).length < n := by
          simp only [List.length_append, List.length_take] at enough ⊢
          omega
        have all : bs.take (n - acc.length) = bs := List.take_of_length_le (by simp at few; omega)
        rw [if_neg enough, all]
        cases x with
        | true => simp
        | false => simpa using ih (acc ++ bs) few

theorem State.rxEnd_of_given {s : State} {n : Nat} (given : s.rxFree n = false) (bound : Rat) :
    s.rxEnd n bound = rxLoop n [] s.env.rx := by
  unfold State.rxFree at given
  unfold State.rxEnd
  cases loop : rxLoop n [] s.env.rx with
  | waiting acc => simp [loop] at given
  | full _ _ | timeout _ _ | closed _ _ => rfl

section

variable {n : Nat} {bound : Rat} {s : State} {acc : List Byte} {rest : List RxStep}

theorem receive_of_full (least : 1 ≤ n) (h : s.rxEnd n bound = .full acc rest) :
    receive n bound s = .ok acc (s.rxDone (s.rxFree n) acc rest) := by
  simp [receive, Nat.ne_of_gt least, h]

theorem receive_of_closed (least : 1 ≤ n) (h : s.rxEnd n bound = .closed acc rest) :
    receive n bound s = .error () ((s.rxDone (s.rxFree n) acc rest).raise .streamClosed n acc.length) := by
  simp [receive, Nat.ne_of_gt least, h]

theorem receive_of_timeout (least : 1 ≤ n) (h : s.rxEnd n bound = .timeout acc rest) :
    receive n bound s =
      .error () ((s.rxDone (s.rxFree n) acc rest).raise (if acc = [] then .noResponse else .shortResponse) n
        acc.length) := by
  simp [receive, Nat.ne_of_gt least, h]

end

/-- Settles O33: the loop's end says which result the read has; its bytes are those of the stream. -/
theorem rxConsumes : Obligations.RxConsumes := by
  intro n bound s least given
  have ended := State.rxEnd_of_given given bound
  have len := rxLoop_cases n s.env.rx [] least
  have bytes := rxLoop_streamBytes n s.env.rx [] least
  rw [← ended] at len bytes
  cases loop : s.rxEnd n bound with
  | full b rest =>
    rw [loop] at len bytes
    rw [receive_of_full least loop]
    exact ⟨len, rfl, bytes⟩
  | closed b rest =>
    rw [loop] at len bytes
    rw [receive_of_closed least loop]
    exact ⟨b, len, rfl, bytes, BitVec.ofInt_natCast .., BitVec.ofInt_natCast .., .inl rfl⟩
  | timeout b rest =>
    rw [loop] at len bytes
    rw [receive_of_timeout least loop]
    refine ⟨b, len, rfl, bytes, BitVec.ofInt_natCast .., BitVec.ofInt_natCast .., .inr ?_⟩
    by_cases nothing : b = []
    · exact .inl ⟨by rw [if_pos nothing]; rfl, nothing⟩
    · exact .inr ⟨by rw [if_neg nothing]; rfl, nothing⟩
  | waiting b =>
    rw [loop] at ended
    simp [State.rxFree, ← ended] at given

end Sys2Proof.Machine

/-! What RD.W, WR.W and WR.BUF make of a response that arrives, good or bad, or breaks off (41_transport.md R170 to
R184, R200): the response half on the stream as the request leaves it, carried out to the whole instruction. -/

namespace Sys2Proof.Machine

/-! ### Responses that pass the checks -/

/-- Settles O24: the words of a valid response, in any cutting. -/
theorem rdWDelivers : Obligations.RdWDelivers := by
  intro s addr count tmo sl w es rest ready slave len stream arrives
  obtain ⟨left, emptied, read⟩ := opRdW_readReply tmo ready slave len stream arrives
  exact ⟨left, emptied, by rw [exec_rdW, runOp_ok read]⟩

/-- Settles O26: WR.W and WR.BUF have one meaning. -/
theorem writeAcknowledged : Obligations.WriteAcknowledged := by
  intro s addr v tmo sl ea ec es rest ready slave stream arrives i write
  obtain ⟨left, emptied, written⟩ := opWrW_ackReply tmo ready slave stream arrives
  exact ⟨left, emptied, by rw [exec_write write, runOp_ok written]⟩

/-! ### A response that faults -/

/-- `s` with the request of a read sent, its response awaited. -/
def State.readSent (s : State) (addr count : Word) (bound : Rat) : State :=
  { s.exchanged (readRequest s.cfg.slaveAddr addr count) [] s.env.rx with
    rdcnt := 0, busy := true, seq := .rx1, pend := some ⟨.read count, bound⟩ }

/-- `s` with the request of a write sent, its response awaited. -/
def State.writeSent (s : State) (addr : Word) (v : List Word) (bound : Rat) : State :=
  { s.exchanged (writeRequest s.cfg.slaveAddr addr v) [] s.env.rx with
    busy := true, seq := .rx1, pend := some ⟨.write, bound⟩ }

theorem State.readSent_rx (s : State) (addr count : Word) (bound : Rat) :
    (s.readSent addr count bound).env.rx = s.env.rx := by simp [State.readSent]

theorem State.writeSent_rx (s : State) (addr : Word) (v : List Word) (bound : Rat) :
    (s.writeSent addr v bound).env.rx = s.env.rx := by simp [State.writeSent]

theorem State.readSent_acceptsSlave (s : State) (addr count : Word) (bound : Rat) (sl : Byte) :
    (s.readSent addr count bound).AcceptsSlave sl ↔ s.AcceptsSlave sl := by simp [State.readSent]

theorem State.writeSent_acceptsSlave (s : State) (addr : Word) (v : List Word) (bound : Rat) (sl : Byte) :
    (s.writeSent addr v bound).AcceptsSlave sl ↔ s.AcceptsSlave sl := by simp [State.writeSent]

/-- What a read that faults with the bytes `got` received leaves, apart from what every failed read does. -/
theorem State.readSent_raise (s : State) (addr count : Word) (bound : Rat) (q : Seq) (got : List Byte)
    (left : List RxStep) (c : Cause) (i0 i1 : Int) :
    (({ s.readSent addr count bound with seq := q } : State).rxDone false got left).raise c i0 i1 =
      ({ s.exchanged (readRequest s.cfg.slaveAddr addr count) got left with rdcnt := 0 } : State).raise c i0 i1 := by
  simp [State.readSent, State.exchanged, State.rxDone, State.raise]

theorem State.writeSent_raise (s : State) (addr : Word) (v : List Word) (bound : Rat) (q : Seq) (got : List Byte)
    (left : List RxStep) (c : Cause) (i0 i1 : Int) :
    (({ s.writeSent addr v bound with seq := q } : State).rxDone false got left).raise c i0 i1 =
      (s.exchanged (writeRequest s.cfg.slaveAddr addr v) got left).raise c i0 i1 := by
  simp [State.writeSent, State.exchanged, State.rxDone, State.raise]

theorem exec_rdW_of_receiveRead_error {s t : State} {addr count : Word} {tmo : Option Rat}
    (ready : s.Ready addr count.toNat 125)
    (h : receiveRead count (s.bound tmo) (s.readSent addr count (s.bound tmo)) = .error () t) :
    exec (.rdW addr count tmo) s = .next t.readFailed := by
  have sent : beginRead addr count (s.bound tmo) s = .ok () (s.readSent addr count (s.bound tmo)) :=
    beginRead_ready s addr count _ ready
  have faults : endRead count (s.bound tmo) (s.readSent addr count (s.bound tmo)) = .error () t := engine_bind_error h
  rw [exec_rdW, opRdW, runOp_inspect_bind, runOp_error (onFault_error ((engine_bind_ok sent).trans faults))]

theorem exec_write_of_receiveWrite_error {s t : State} {addr : Word} {v : List Word} {tmo : Option Rat} {i : Instr}
    (write : i = .wrW addr v tmo ∨ i = .wrBuf addr v tmo) (ready : s.Ready addr v.length 123)
    (h : receiveWrite (s.bound tmo) (s.writeSent addr v (s.bound tmo)) = .error () t) :
    exec i s = .next t := by
  have sent : beginWrite addr v (s.bound tmo) s = .ok () (s.writeSent addr v (s.bound tmo)) :=
    beginWrite_ready s addr v _ ready
  rw [exec_write write, opWrW, runOp_inspect_bind, runOp_error ((engine_bind_ok sent).trans (endWrite_error h))]

/-! ### A read response that breaks off -/

section

variable {s : State} {count : Word} {b t : List Byte} {closed : Bool} {es rest : List RxStep} {sl bc : Byte}

theorem receiveRead_headBreaksOff (bound : Rat) (short : b.length < 3) (breaks : BreaksOff es b closed)
    (stream : s.env.rx = es ++ rest) :
    receiveRead count bound s =
      .error () ((({ s with seq := .rx1 } : State).rxDone false b rest).raise (shortCause closed b.length) 3
        b.length) := by
  rw [receiveRead, moveSeq_bind]
  exact engine_bind_error (receive_breaksOff 3 bound { s with seq := .rx1 } b es rest closed short breaks stream)

theorem receiveRead_tailBreaksOff (bound : Rat) (slave : s.AcceptsSlave sl) (short : t.length < bc.toNat + 2)
    (breaks : BreaksOff es ([sl, fcRead, bc] ++ t) closed) (stream : s.env.rx = es ++ rest) :
    receiveRead count bound s =
      .error () ((({ s with seq := .rx2 } : State).rxDone false ([sl, fcRead, bc] ++ t) rest).raise
        (shortCause closed t.length) (bc.toNat + 2 : Nat) t.length) := by
  obtain ⟨left, remains, head⟩ := receive_beforeBreak 3 bound { s with seq := .rx1 } _ es rest closed (by simp)
    (by simp) breaks stream
  have tail := receive_breaksOff (bc.toNat + 2) bound
    (({ s with seq := .rx2 } : State).rxDone false [sl, fcRead, bc] (left ++ rest)) t left rest closed short remains rfl
  rw [receiveRead, moveSeq_bind, engine_bind_ok head, checkSlave_bind, if_pos (by exact slave), require_bind,
    if_pos (by rfl), moveSeq_bind]
  refine (engine_bind_error tail).trans ?_
  rw [State.rxDone_rxDone]

end

/-- Settles O25: a response that breaks off is one whose reads break off; one that arrives is checked in order. -/
theorem readResponseFaults : Obligations.ReadResponseFaults := by
  constructor
  · intro s addr count tmo b closed es rest ready stream breaks
    have waiting : (s.readSent addr count (s.bound tmo)).env.rx = es ++ rest := by rw [State.readSent_rx, stream]
    refine ⟨fun short => ?_, ?_⟩
    · rw [exec_rdW_of_receiveRead_error ready (receiveRead_headBreaksOff _ short breaks waiting),
        State.readSent_raise]
      rfl
    · rintro sl bc t rfl slave short
      have accepted := (s.readSent_acceptsSlave addr count (s.bound tmo) sl).2 slave
      rw [exec_rdW_of_receiveRead_error ready (receiveRead_tailBreaksOff _ accepted short breaks waiting),
        State.readSent_raise]
      rfl
  · intro s addr count tmo sl fn bc payload more lo hi es rest ready stream len arrives
    have waiting : (s.readSent addr count (s.bound tmo)).env.rx = es ++ rest := by rw [State.readSent_rx, stream]
    obtain ⟨tail, left, unread, remains, received⟩ := receiveRead_all count (s.bound tmo) _ sl fn bc payload more lo hi
      es rest arrives waiting len
    have accepts := s.readSent_acceptsSlave addr count (s.bound tmo) sl
    by_cases slave : s.AcceptsSlave sl
    · rw [if_pos (accepts.2 slave)] at received
      by_cases function : fn = fcRead
      · rw [if_pos function] at received
        refine ⟨left, fun foreign => absurd slave foreign, fun _ other => absurd function other,
          fun _ _ mismatch => ⟨remains, ?_⟩, fun _ _ sealed wrong => ⟨remains, ?_⟩⟩
        · rw [if_neg mismatch] at received
          rw [exec_rdW_of_receiveRead_error ready received, State.readSent_raise]
        · rw [if_pos sealed, if_neg wrong] at received
          rw [exec_rdW_of_receiveRead_error ready received, State.readSent_raise]
      · rw [if_neg function] at received
        refine ⟨tail, fun foreign => absurd slave foreign, fun _ _ => ⟨unread, ?_⟩, fun _ same => absurd same function,
          fun _ same => absurd same function⟩
        rw [exec_rdW_of_receiveRead_error ready received, State.readSent_raise]
    · rw [if_neg (mt accepts.1 slave)] at received
      refine ⟨tail, fun _ => ⟨unread, ?_⟩, fun accepted => absurd accepted slave, fun accepted => absurd accepted slave,
        fun accepted => absurd accepted slave⟩
      rw [exec_rdW_of_receiveRead_error ready received, State.readSent_raise]

/-! ### A write response that breaks off -/

section

variable {s : State} {b t : List Byte} {closed : Bool} {es rest : List RxStep} {sl fn len : Byte}

theorem receiveWrite_headBreaksOff (bound : Rat) (short : b.length < 2) (breaks : BreaksOff es b closed)
    (stream : s.env.rx = es ++ rest) :
    receiveWrite bound s =
      .error () ((({ s with seq := .rx1 } : State).rxDone false b rest).raise (shortCause closed b.length) 2
        b.length) := by
  rw [receiveWrite, moveSeq_bind]
  exact engine_bind_error (receive_breaksOff 2 bound { s with seq := .rx1 } b es rest closed short breaks stream)

/-- The function byte selects the path also in a response that breaks off later (30_encoding.md R97). -/
theorem receiveWrite_beforeBreak (bound : Rat) (slave : s.AcceptsSlave sl)
    (breaks : BreaksOff es ([sl, fn] ++ t) closed) (stream : s.env.rx = es ++ rest) :
    ∃ left, BreaksOff left t closed ∧ receiveWrite bound s =
      (if fn = fcWrite then receiveAck [sl, fn] bound else receiveNak fn bound)
        (({ s with seq := .rx1 } : State).rxDone false [sl, fn] (left ++ rest)) := by
  obtain ⟨left, remains, head⟩ := receive_beforeBreak 2 bound { s with seq := .rx1 } _ es rest closed (by simp)
    (by simp) breaks stream
  refine ⟨left, by simpa using remains, ?_⟩
  rw [receiveWrite, moveSeq_bind, engine_bind_ok head, checkSlave_bind, if_pos (by exact slave)]
  rfl

theorem receiveAck_breaksOff (h : List Byte) (bound : Rat) (short : t.length < 6) (breaks : BreaksOff es t closed)
    (stream : s.env.rx = es ++ rest) :
    receiveAck h bound s =
      .error () ((({ s with seq := .rx2 } : State).rxDone false t rest).raise (shortCause closed t.length) 6
        t.length) := by
  rw [receiveAck, moveSeq_bind]
  exact engine_bind_error (receive_breaksOff 6 bound { s with seq := .rx2 } t es rest closed short breaks stream)

theorem receiveNak_breaksOffBeforeLength (fn : Byte) (bound : Rat) (breaks : BreaksOff es [] closed)
    (stream : s.env.rx = es ++ rest) :
    receiveNak fn bound s =
      .error () ((({ s with errfunc := fn, seq := .rx2 } : State).rxDone false [] rest).raise (shortCause closed 0) 1
        0) := by
  rw [receiveNak, update_bind, moveSeq_bind]
  exact engine_bind_error (receive_breaksOff 1 bound { s with errfunc := fn, seq := .rx2 } [] es rest closed (by simp)
    breaks stream)

theorem receiveNak_breaksOffInPayload (fn : Byte) (bound : Rat) (short : t.length < len.toNat)
    (breaks : BreaksOff es (len :: t) closed) (stream : s.env.rx = es ++ rest) :
    receiveNak fn bound s =
      .error () ((({ s with errfunc := fn, errlen := len, seq := .rx3 } : State).rxDone false (len :: t) rest).raise
        (shortCause closed t.length) len.toNat t.length) := by
  obtain ⟨left, remains, read⟩ := receive_beforeBreak 1 bound { s with errfunc := fn, seq := .rx2 } (len :: t) es rest
    closed (by simp) (by simp) breaks stream
  have payload := receive_breaksOff len.toNat bound
    (({ s with errfunc := fn, errlen := len, seq := .rx3 } : State).rxDone false [len] (left ++ rest)) t left rest
    closed short (by simpa using remains) rfl
  rw [receiveNak, update_bind, moveSeq_bind, engine_bind_ok read, update_bind, moveSeq_bind]
  refine (engine_bind_error payload).trans ?_
  rw [State.rxDone_rxDone]
  rfl

end

/-- An acknowledgement whose two CRC octets are not those of its bytes. -/
theorem receiveWrite_crcMismatch {s : State} {sl lo hi : Byte} {ea ec : Word} {es rest : List RxStep} (bound : Rat)
    (slave : s.AcceptsSlave sl)
    (mismatch : ¬(lo = lo8 (crc16 ([sl, 0x10] ++ be16 ea ++ be16 ec)) ∧
      hi = hi8 (crc16 ([sl, 0x10] ++ be16 ea ++ be16 ec))))
    (arrives : Arrives es ([sl, 0x10] ++ be16 ea ++ be16 ec ++ [lo, hi])) (stream : s.env.rx = es ++ rest) :
    ∃ left, Arrives left [] ∧ receiveWrite bound s =
      .error () ((({ s with seq := .check } : State).rxDone false ([sl, 0x10] ++ be16 ea ++ be16 ec ++ [lo, hi])
        (left ++ rest)).raise .crcMismatch (crc16 ([sl, 0x10] ++ be16 ea ++ be16 ec)).toNat
          (ofOctets hi lo).toNat) := by
  obtain ⟨middle, tail, head⟩ := receiveWrite_head bound s sl fcWrite (be16 ea ++ be16 ec ++ [lo, hi]) es rest arrives
    stream
  obtain ⟨left, emptied, ack⟩ := receiveAck_arrives bound
    (({ s with seq := .rx1 } : State).rxDone false [sl, fcWrite] (middle ++ rest)) sl lo hi ea ec middle rest tail rfl
  refine ⟨left, emptied, ?_⟩
  rw [head, if_pos slave, if_pos rfl]
  refine (ack.trans (if_neg mismatch)).trans ?_
  simp [State.rxDone, be16, fcWrite]

/-- Settles O27: each place where a response breaks off, and the three responses that end a write in a fault. -/
theorem writeResponseFaults : Obligations.WriteResponseFaults := by
  constructor
  · intro s addr v tmo b closed es rest ready stream breaks i write
    have waiting : (s.writeSent addr v (s.bound tmo)).env.rx = es ++ rest := by rw [State.writeSent_rx, stream]
    have accepted (sl : Byte) := (s.writeSent_acceptsSlave addr v (s.bound tmo) sl).2
    refine ⟨fun short => ?head, ?ack, ?length, ?payload⟩
    case head =>
      rw [exec_write_of_receiveWrite_error write ready (receiveWrite_headBreaksOff _ short breaks waiting),
        State.writeSent_raise]
    case ack =>
      rintro sl t rfl slave short
      obtain ⟨left, remains, head⟩ := receiveWrite_beforeBreak (s.bound tmo) (accepted sl slave) breaks waiting
      have faults := head.trans (receiveAck_breaksOff _ (s.bound tmo) short remains rfl)
      rw [exec_write_of_receiveWrite_error write ready faults]
      simp [State.writeSent, State.exchanged, State.rxDone, State.raise]
    case length =>
      rintro sl fn rfl slave failure
      obtain ⟨left, remains, head⟩ := receiveWrite_beforeBreak (t := []) (s.bound tmo) (accepted sl slave) breaks
        waiting
      have faults := (head.trans (congrFun (if_neg failure) _)).trans
        (receiveNak_breaksOffBeforeLength fn (s.bound tmo) remains rfl)
      rw [exec_write_of_receiveWrite_error write ready faults]
      simp [State.writeSent, State.exchanged, State.rxDone, State.raise]
    case payload =>
      rintro sl fn len t rfl slave failure short
      obtain ⟨left, remains, head⟩ := receiveWrite_beforeBreak (t := len :: t) (s.bound tmo) (accepted sl slave) breaks
        waiting
      have faults := (head.trans (congrFun (if_neg failure) _)).trans
        (receiveNak_breaksOffInPayload fn (s.bound tmo) short remains rfl)
      rw [exec_write_of_receiveWrite_error write ready faults]
      simp [State.writeSent, State.exchanged, State.rxDone, State.raise]
  · intro s addr v tmo sl fn lo hi ea ec p es rest ready stream len i write
    have waiting : (s.writeSent addr v (s.bound tmo)).env.rx = es ++ rest := by rw [State.writeSent_rx, stream]
    have accepts := s.writeSent_acceptsSlave addr v (s.bound tmo) sl
    refine ⟨fun slave failure arrives => ?nak, fun slave mismatch arrives => ?crc, fun foreign arrives => ?slave⟩
    case nak =>
      obtain ⟨left, emptied, faults⟩ := receiveWrite_writeError (s.bound tmo) (accepts.2 slave) failure len arrives
        waiting
      refine ⟨left, emptied, ?_⟩
      rw [exec_write_of_receiveWrite_error write ready faults]
      simp [State.writeSent, State.exchanged, State.rxDone, State.raise, writeError]
    case crc =>
      obtain ⟨left, emptied, faults⟩ := receiveWrite_crcMismatch (s.bound tmo) (accepts.2 slave) mismatch arrives
        waiting
      refine ⟨left, emptied, ?_⟩
      rw [exec_write_of_receiveWrite_error write ready faults, State.writeSent_raise]
    case slave =>
      obtain ⟨left, unread, head⟩ := receiveWrite_head (s.bound tmo) _ sl fn p es rest arrives waiting
      have faults := head.trans (if_neg (mt accepts.1 foreign))
      refine ⟨left, unread, ?_⟩
      rw [exec_write_of_receiveWrite_error write ready faults, State.writeSent_raise]

end Sys2Proof.Machine

/-! What a transport operation may end in, whatever the environment does, and what it leaves unchanged (41_transport.md
R177, R183 to R185, R193; 60_exceptions.md R322).

`State.still` blanks the registers of a transaction in progress; a piece of an operation is described by what it does to
the rest, and a fault by the state it was raised from. -/

namespace Sys2Proof.Machine

/-! ### What a transaction in progress leaves -/

/-- `s` with the registers of a transaction in progress, the streams and the counter of free values blanked. -/
def State.still (s : State) : State :=
  { s with
    status := 0, busy := false, segcnt := 0, seq := .idle, cur := 0, rem := 0, rxacc := [], pend := none, sent := []
    env := ⟨[], [], []⟩, draws := 0 }

/-- Nothing but the transaction in progress has changed. -/
abbrev State.Works (s t : State) : Prop := t.still = s.still

/-- Besides, words may have been delivered. -/
abbrev State.Reads (s t : State) : Prop := ∃ n d, t.still = { s.still with rdcnt := n, rdb := d }

/-- Besides, an acknowledgement may have been stored. -/
abbrev State.Acks (s t : State) : Prop := ∃ a n, t.still = { s.still with echoaddr := a, echocnt := n }

/-- Besides, an error response may have been stored. -/
abbrev State.Naks (s t : State) : Prop :=
  ∃ fn len p, t.still = { s.still with errfunc := fn, errlen := len, errbuf := p }

/-- Besides, the count of words read has been cleared (R163). -/
abbrev State.Clears (s t : State) : Prop := t.still = { s.still with rdcnt := 0 }

/-- One of the causes has been raised at a state that `P` relates to `s`. -/
abbrev State.Fails (P : State → State → Prop) (cs : List Cause) (s t : State) : Prop :=
  ∃ u c i0 i1, P s u ∧ c ∈ cs ∧ t = u.raise c i0 i1

section

variable {s t u : State} {P P' : State → State → Prop} {cs cs' : List Cause}

theorem State.Works.refl (s : State) : s.Works s := rfl

theorem State.Works.trans (h : s.Works t) (k : t.Works u) : s.Works u := Eq.trans k h

theorem State.Works.reads (h : s.Works t) : s.Reads t := ⟨s.rdcnt, s.rdb, h⟩

theorem State.Works.naks (h : s.Works t) : s.Naks t := ⟨s.errfunc, s.errlen, s.errbuf, h⟩

theorem State.Reads.trans (h : s.Reads t) (k : t.Reads u) : s.Reads u := by
  obtain ⟨n, d, h⟩ := h
  obtain ⟨m, e, k⟩ := k
  exact ⟨m, e, by rw [k, h]⟩

theorem State.Naks.trans (h : s.Naks t) (k : t.Naks u) : s.Naks u := by
  obtain ⟨_, _, _, h⟩ := h
  obtain ⟨fn, len, p, k⟩ := k
  exact ⟨fn, len, p, by rw [k, h]⟩

theorem State.Works.acks_trans (h : s.Works t) (k : t.Acks u) : s.Acks u := by
  obtain ⟨a, n, k⟩ := k
  exact ⟨a, n, by rw [k, h]⟩

theorem State.Fails.mono (h : s.Fails P cs t) (hp : ∀ a b, P a b → P' a b) (hc : cs ⊆ cs') : s.Fails P' cs' t := by
  obtain ⟨u, c, i0, i1, before, mem, raised⟩ := h
  exact ⟨u, c, i0, i1, hp _ _ before, hc mem, raised⟩

theorem State.Fails.after (h : t.Fails P cs u) (hp : ∀ v, P t v → P' s v) : s.Fails P' cs u := by
  obtain ⟨v, c, i0, i1, before, mem, raised⟩ := h
  exact ⟨v, c, i0, i1, hp v before, mem, raised⟩

end

/-! ### Pieces that store nothing of a response -/

/-- A piece of a transaction that stores nothing, and can raise the given causes only. -/
abbrev Attempts {α : Type} (cs : List Cause) (op : Engine α) : Prop := Ends State.Works (State.Fails State.Works cs) op

section

variable {α β : Type} {cs : List Cause}

theorem Attempts.then {x : Engine α} {f : α → Engine β} (hx : Attempts cs x) (hf : ∀ a, Attempts cs (f a)) :
    Attempts cs (x >>= f) :=
  ends_bind (P := State.Works) (fun _ _ _ h k => h.trans k) (fun _ _ _ h k => k.after fun _ => h.trans) hx hf

theorem attempts_pure (a : α) : Attempts cs (pure a : Engine α) := ends_pure State.Works.refl a

theorem attempts_inspect (f : State → α) : Attempts cs (inspect f) := ends_inspect State.Works.refl f

theorem attempts_update {f : State → State} (h : ∀ s : State, s.Works (f s)) : Attempts cs (update f) := ends_update h

theorem attempts_require (p : Prop) [Decidable p] {c : Cause} (mem : c ∈ cs) (i0 i1 : Int) :
    Attempts cs (require p c i0 i1) :=
  ends_require State.Works.refl fun s => ⟨s, c, i0, i1, rfl, mem, rfl⟩

theorem attempts_receive (mem : [Cause.streamClosed, .noResponse, .shortResponse] ⊆ cs) (n : Nat) (bound : Rat) :
    Attempts cs (receive n bound) :=
  ends_receive State.Works.refl (fun _ _ _ _ => rfl)
    (fun s free acc rest c i0 i1 hc => ⟨s.rxDone free acc rest, c, i0, i1, rfl, mem hc, rfl⟩) n bound

theorem State.works_transmitted (s : State) (sent : List Byte) : s.Works { s.txDrawn with sent := sent } := by
  simp [State.Works, State.still]

theorem attempts_sendRequest (mem : .writeFail ∈ cs) (q : List Byte) (p : Pending) :
    Attempts cs (sendRequest q p) := by
  have send : Attempts cs (transmit (sealFrame q)) :=
    ends_transmit _ (fun s => s.works_transmitted _) fun s _ => ⟨_, _, 0, 0, s.works_transmitted _, mem, rfl⟩
  have clear : Attempts cs (update fun s => { s with rxacc := [], seq := .tx }) := attempts_update fun _ => rfl
  have wait : Attempts cs (update fun s => { s with seq := .rx1, pend := some p }) := attempts_update fun _ => rfl
  exact clear.then fun _ => send.then fun _ => wait

theorem attempts_checkLink (mem : .linkNotOpen ∈ cs) : Attempts cs checkLink :=
  (attempts_inspect _).then fun _ => attempts_require _ mem _ _

theorem attempts_checkSlave (mem : .wrongSlave ∈ cs) (h : Byte) : Attempts cs (checkSlave h) :=
  (attempts_inspect _).then fun _ => attempts_require _ mem _ _

theorem attempts_moveSeq (q : Seq) : Attempts cs (moveSeq q) := attempts_update fun _ => rfl

theorem attempts_startTransaction : Attempts cs startTransaction := attempts_update fun _ => rfl

end

/-! ### Reads -/

/-- The eleven causes a read can raise (41_transport.md R200). -/
def readCauses : List Cause :=
  [.countRange, .addrRange, .linkNotOpen, .writeFail, .streamClosed, .noResponse, .shortResponse, .wrongSlave,
    .wrongFunction, .crcMismatch, .badByteCount]

/-- The three causes of a low-level read. -/
theorem receiveCauses_subset_readCauses :
    [Cause.streamClosed, .noResponse, .shortResponse] ⊆ readCauses := by simp [readCauses]

/-- A piece of a read. -/
abbrev AttemptsRead {α : Type} (op : Engine α) : Prop := Ends State.Reads (State.Fails State.Reads readCauses) op

/-- A read that ended normally with `n` words. -/
abbrev State.ReadEnds (n : BitVec 17) (s t : State) : Prop := s.Reads t ∧ t.Idle ∧ t.status = 0 ∧ t.rdcnt = n

/-- A read that a raise ended. -/
abbrev State.ReadFails (s t : State) : Prop := ∃ u, s.Fails State.Reads readCauses u ∧ t = u.readFailed

section

variable {α β : Type}

theorem Attempts.read {op : Engine α} (h : Attempts readCauses op) : AttemptsRead op :=
  ends_mono h (fun _ _ => State.Works.reads) fun _ _ k => k.mono (fun _ _ => State.Works.reads) (List.Subset.refl _)

theorem AttemptsRead.then {x : Engine α} {f : α → Engine β} (hx : AttemptsRead x) (hf : ∀ a, AttemptsRead (f a)) :
    AttemptsRead (x >>= f) :=
  ends_bind (P := State.Reads) (fun _ _ _ h k => h.trans k) (fun _ _ _ h k => k.after fun _ => h.trans) hx hf

/-- What ends a read comes after its pieces. -/
theorem AttemptsRead.thenEnds {n : BitVec 17} {x : Engine α} {f : α → Engine Unit} (hx : AttemptsRead x)
    (hf : ∀ a, Ends (State.ReadEnds n) (State.Fails State.Reads readCauses) (f a)) :
    Ends (State.ReadEnds n) (State.Fails State.Reads readCauses) (x >>= f) :=
  ends_bind_of hx hf (fun _ _ _ h ⟨reads, ended⟩ => ⟨h.trans reads, ended⟩) (fun _ _ => id)
    fun _ _ _ h k => k.after fun _ => h.trans

theorem attempts_receiveRead (count : Word) (bound : Rat) : Attempts readCauses (receiveRead count bound) :=
  (attempts_moveSeq _).then fun _ => (attempts_receive receiveCauses_subset_readCauses _ _).then fun _ =>
    (attempts_checkSlave (by decide) _).then fun _ => (attempts_require _ (by decide) _ _).then fun _ =>
      (attempts_moveSeq _).then fun _ => (attempts_receive receiveCauses_subset_readCauses _ _).then fun _ =>
        (attempts_moveSeq _).then fun _ => (attempts_require _ (by decide) _ _).then fun _ =>
          (attempts_require _ (by decide) _ _).then fun _ => attempts_pure _

theorem attempts_sendRead (addr count : Word) (bound : Rat) : Attempts readCauses (sendRead addr count bound) :=
  (attempts_inspect _).then fun _ => attempts_sendRequest (by decide) _ _

theorem attemptsRead_update {f : State → State} (h : ∀ s : State, s.Reads (f s)) : AttemptsRead (update f) :=
  ends_update h

theorem attemptsRead_clearCounts : AttemptsRead (update fun s => { s with rdcnt := 0, segcnt := 0 }) :=
  attemptsRead_update fun s => ⟨0, s.rdb, rfl⟩

theorem attemptsRead_beginRead (addr count : Word) (bound : Rat) : AttemptsRead (beginRead addr count bound) :=
  attemptsRead_clearCounts.then fun _ => Attempts.read <|
    (attempts_require _ (by decide) _ _).then fun _ => (attempts_require _ (by decide) _ _).then fun _ =>
      (attempts_checkLink (by decide)).then fun _ => attempts_startTransaction.then fun _ => attempts_sendRead _ _ _

/-- The last writes of a read. -/
theorem deliver_finish_ends {Q : State → State → Prop} {n : BitVec 17} {f : State → State}
    (reads : ∀ s : State, s.Reads (f s)) (count : ∀ s : State, (f s).rdcnt = n) :
    Ends (State.ReadEnds n) Q (do update f; finishTransport) :=
  ends_update (f := fun s => (f s).finished) fun s => ⟨reads s, ⟨rfl, rfl, rfl⟩, rfl, count s⟩

theorem endRead_ends (count : Word) (bound : Rat) :
    Ends (State.ReadEnds (count.setWidth 17)) (State.Fails State.Reads readCauses) (endRead count bound) :=
  (attempts_receiveRead count bound).read.thenEnds fun w =>
    deliver_finish_ends (fun s => ⟨count.setWidth 17, cellsWriteAll s.rdb 0 w, rfl⟩) fun _ => rfl

theorem opRdW_ends (addr count : Word) (tmo : Option Rat) :
    Ends (State.ReadEnds (count.setWidth 17)) State.ReadFails (opRdW addr count tmo) := fun s =>
  ends_onFault ((attemptsRead_beginRead addr count (s.bound tmo)).thenEnds fun _ => endRead_ends count (s.bound tmo))
    (fun _ u fails => ⟨u, fails, rfl⟩) s

theorem attemptsRead_readSegment (total : BitVec 17) (bound : Rat) : AttemptsRead (readSegment total bound) := by
  refine (attempts_inspect _).read.then fun cur => (attempts_inspect _).read.then fun rem =>
    attempts_startTransaction.read.then fun _ => ?_
  have exchange (addr count : Word) : Attempts readCauses (memRead addr count bound) :=
    (attempts_sendRead _ _ _).then fun _ => attempts_receiveRead _ _
  exact (exchange _ _).read.then fun w =>
    attemptsRead_update fun s => ⟨s.rdcnt, cellsWriteAll s.rdb (total.toNat - rem.toNat) w, rfl⟩

theorem attemptsRead_readSegments (total : BitVec 17) (bound : Rat) (fuel : Nat) :
    AttemptsRead (readSegments total bound fuel) := by
  induction fuel with
  | zero => exact (attempts_pure ()).read
  | succ fuel ih =>
    refine (attempts_inspect _).read.then fun rem => ?_
    split
    · exact (attempts_pure ()).read
    · exact (attemptsRead_readSegment total bound).then fun _ => ih

theorem opRdBuf_ends (addr : Word) (total : Nat) (tmo : Option Rat) :
    Ends (State.ReadEnds (BitVec.ofNat 17 total)) State.ReadFails (opRdBuf addr total tmo) := fun s => by
  refine ends_onFault (attemptsRead_clearCounts.thenEnds fun _ => ?_) (fun _ u fails => ⟨u, fails, rfl⟩) s
  have start : Attempts readCauses (update fun s =>
      { s with busy := true, cur := addr.setWidth 17, rem := BitVec.ofNat 17 total }) := attempts_update fun _ => rfl
  refine (attempts_require _ (by decide) _ _).read.thenEnds fun _ => (attempts_checkLink (by decide)).read.thenEnds
    fun _ => start.read.thenEnds fun _ => (attemptsRead_readSegments _ _ _).thenEnds fun _ => ?_
  exact deliver_finish_ends (fun s => ⟨BitVec.ofNat 17 total, s.rdb, rfl⟩) fun _ => rfl

end

/-! ### What is outside the transport unit -/

/-- `s` with every register of the transport unit blanked. -/
def State.outside (s : State) : State :=
  { s.still with
    fsticky := 0, info0 := 0, info1 := 0, errfunc := 0, errlen := 0, echoaddr := 0, echocnt := 0, rdcnt := 0
    errbuf := [], rdb := [] }

theorem State.sameOutsideTransport_of_outside {s t : State} (h : t.outside = s.outside) : s.SameOutsideTransport t where
  cfg := (congrArg State.cfg h :)
  crcr := (congrArg State.crcr h :)
  hc := (congrArg State.hc h :)
  tmo := (congrArg State.tmo h :)
  link := (congrArg State.link h :)
  gt := (congrArg State.gt h :)
  ucr := (congrArg State.ucr h :)
  bdur := (congrArg State.bdur h :)
  rl := (congrArg State.rl h :)
  eqf := (congrArg State.eqf h :)
  tsw := ⟨(congrArg State.tsw0 h :), (congrArg State.tsw1 h :), (congrArg State.tsw2 h :)⟩
  tssec := (congrArg State.tssec h :)
  tsms := (congrArg State.tsms h :)
  scr := (congrArg State.scr h :)
  pr := ⟨(congrArg State.pr h :), (congrArg State.prv h :)⟩
  inbox := (congrArg State.inbox h :)

/-- What O30 says of a read of `n` words. -/
abbrev State.ReadOutcome (n : BitVec 17) (s t : State) : Prop :=
  s.SameOutsideTransport t ∧ t.busy = false ∧ t.seq = .idle ∧ t.pend = none ∧
  (t.errfunc = s.errfunc ∧ t.errlen = s.errlen ∧ t.errbuf = s.errbuf ∧ t.echoaddr = s.echoaddr ∧
    t.echocnt = s.echocnt) ∧
  ((t.status = 0 ∧ t.info0 = s.info0 ∧ t.info1 = s.info1 ∧ t.fsticky = s.fsticky ∧ t.rdcnt = n) ∨
    (t.rdcnt = 0 ∧ ∃ c ∈ readCauses, t.status = c.status ∧ t.fsticky = s.fsticky ||| c.kind.stickyBit))

section

variable {s t : State} {n : BitVec 17}

theorem State.Reads.keeps (h : s.Reads t) :
    t.outside = s.outside ∧
    (t.errfunc = s.errfunc ∧ t.errlen = s.errlen ∧ t.errbuf = s.errbuf ∧ t.echoaddr = s.echoaddr ∧
      t.echocnt = s.echocnt) ∧
    t.info0 = s.info0 ∧ t.info1 = s.info1 ∧ t.fsticky = s.fsticky := by
  obtain ⟨_, _, same⟩ := h
  exact ⟨(congrArg State.outside same :),
    ⟨(congrArg State.errfunc same :), (congrArg State.errlen same :), (congrArg State.errbuf same :),
      (congrArg State.echoaddr same :), (congrArg State.echocnt same :)⟩,
    (congrArg State.info0 same :), (congrArg State.info1 same :), (congrArg State.fsticky same :)⟩

theorem State.ReadEnds.outcome (h : s.ReadEnds n t) : s.ReadOutcome n t := by
  obtain ⟨reads, ⟨seq, busy, pend⟩, status, count⟩ := h
  obtain ⟨outside, regs, info0, info1, sticky⟩ := reads.keeps
  exact ⟨State.sameOutsideTransport_of_outside outside, busy, seq, pend, regs,
    .inl ⟨status, info0, info1, sticky, count⟩⟩

theorem State.ReadFails.outcome (h : s.ReadFails t) : s.ReadOutcome n t := by
  obtain ⟨_, ⟨u, c, i0, i1, reads, mem, rfl⟩, rfl⟩ := h
  obtain ⟨outside, regs, _, _, sticky⟩ := reads.keeps
  exact ⟨State.sameOutsideTransport_of_outside outside, rfl, rfl, rfl, regs,
    .inr ⟨rfl, c, mem, rfl, congrArg (· ||| c.kind.stickyBit) sticky⟩⟩

theorem readOutcome_of_ends {op : Engine Unit} (h : Ends (State.ReadEnds n) State.ReadFails op) (s : State) :
    s.ReadOutcome n (runOp op s) :=
  (ends_runOp h s).elim State.ReadEnds.outcome State.ReadFails.outcome

end

/-- Settles O30: RD.W and RD.BUF end as `opRdW_ends` and `opRdBuf_ends` say. -/
theorem readOutcomes : Obligations.ReadOutcomes := by
  rintro s t addr count total tmo i (rfl | rfl) h
  · obtain rfl := Host.Outcome.next.inj h
    exact readOutcome_of_ends (opRdW_ends addr count tmo) s
  · obtain rfl := Host.Outcome.next.inj h
    have outcome := readOutcome_of_ends (opRdBuf_ends addr total.toNat tmo) s
    rwa [BitVec.ofNat_toNat, BitVec.setWidth_eq] at outcome

end Sys2Proof.Machine

/-! What a write may end in, and what the engine's own move leaves unchanged (41_transport.md R183 to R185; 10_state.md
R27). -/

namespace Sys2Proof.Machine

/-! ### Writes -/

/-- The causes a write can raise having stored nothing. -/
def writeCauses : List Cause :=
  [.linkNotOpen, .writeFail, .streamClosed, .noResponse, .shortResponse, .wrongSlave, .crcMismatch]

/-- The causes the failure path can raise (41_transport.md R184). -/
def nakCauses : List Cause := [.streamClosed, .noResponse, .shortResponse, .writeNak]

theorem receiveCauses_subset_writeCauses :
    [Cause.streamClosed, .noResponse, .shortResponse] ⊆ writeCauses := by simp [writeCauses]

theorem receiveCauses_subset_nakCauses :
    [Cause.streamClosed, .noResponse, .shortResponse] ⊆ nakCauses := by simp [nakCauses]

/-- A write that a raise ended: before anything was stored, in the operand checks, or on the failure path. -/
abbrev State.WriteFails (s t : State) : Prop :=
  s.Fails State.Works writeCauses t ∨ s.Fails State.Clears [.countRange, .addrRange] t ∨ s.Fails State.Naks nakCauses t

/-- A write that ended normally. -/
abbrev State.WriteEnds (s t : State) : Prop := s.Acks t ∧ t.Idle ∧ t.status = 0

section

variable {s t u : State}

theorem State.Works.writeFails (h : s.Works t) (k : t.WriteFails u) : s.WriteFails u := by
  rcases k with k | k | k
  · exact .inl (k.after fun _ => h.trans)
  · exact .inr (.inl (k.after fun v (cleared : t.Clears v) => by
      rw [State.Clears, cleared, h]))
  · exact .inr (.inr (k.after fun _ => h.naks.trans))

end

section

variable {α β : Type}

/-- Pieces that store nothing come before what ends a write. -/
theorem Attempts.thenWrites {P : State → State → Prop} (hp : ∀ s t u : State, s.Works t → P t u → P s u) {x : Engine α}
    {f : α → Engine β} (hx : Attempts writeCauses x) (hf : ∀ a, Ends P State.WriteFails (f a)) :
    Ends P State.WriteFails (x >>= f) :=
  ends_bind_of hx hf hp (fun _ _ h => .inl h) fun _ _ _ h k => h.writeFails k

theorem Attempts.thenAcks {x : Engine α} {f : α → Engine β} (hx : Attempts writeCauses x)
    (hf : ∀ a, Ends State.Acks State.WriteFails (f a)) : Ends State.Acks State.WriteFails (x >>= f) :=
  hx.thenWrites (P := State.Acks) (fun _ _ _ h k => h.acks_trans k) hf

/-- A piece of the failure path. -/
abbrev AttemptsNak {α : Type} (op : Engine α) : Prop := Ends State.Naks (State.Fails State.Naks nakCauses) op

theorem Attempts.nak {op : Engine α} (h : Attempts nakCauses op) : AttemptsNak op :=
  ends_mono h (fun _ _ => State.Works.naks) fun _ _ k => k.mono (fun _ _ => State.Works.naks) (List.Subset.refl _)

/-- The failure path never ends normally. -/
theorem AttemptsNak.then {x : Engine α} {f : α → Engine β} (hx : AttemptsNak x)
    (hf : ∀ a, Ends (fun _ _ => False) (State.Fails State.Naks nakCauses) (f a)) :
    Ends (fun _ _ => False) (State.Fails State.Naks nakCauses) (x >>= f) :=
  ends_bind_of hx hf (fun _ _ _ _ => id) (fun _ _ => id) fun _ _ _ h k => k.after fun _ => h.trans

theorem receiveAck_ends (h : List Byte) (bound : Rat) : Ends State.Acks State.WriteFails (receiveAck h bound) :=
  (attempts_moveSeq _).thenAcks fun _ => (attempts_receive receiveCauses_subset_writeCauses _ _).thenAcks fun _ =>
    (attempts_moveSeq _).thenAcks fun _ => (attempts_require _ (by decide) _ _).thenAcks fun _ =>
      ends_update fun _ => ⟨_, _, rfl⟩

theorem receiveNak_ends (fn : Byte) (bound : Rat) :
    Ends (fun _ _ => False) (State.Fails State.Naks nakCauses) (receiveNak fn bound) := by
  have writeFunc : AttemptsNak (update fun s => { s with errfunc := fn }) :=
    ends_update fun s => ⟨fn, s.errlen, s.errbuf, rfl⟩
  have writeLen (len : Byte) : AttemptsNak (update fun s => { s with errlen := len }) :=
    ends_update fun s => ⟨s.errfunc, len, s.errbuf, rfl⟩
  have writeBuf (p : List Byte) : AttemptsNak (update fun s => { s with errbuf := cellsWriteAll s.errbuf 0 p }) :=
    ends_update fun s => ⟨s.errfunc, s.errlen, cellsWriteAll s.errbuf 0 p, rfl⟩
  exact writeFunc.then fun _ => (attempts_moveSeq _).nak.then fun _ =>
    (attempts_receive receiveCauses_subset_nakCauses _ _).nak.then fun l => (writeLen (byteAt l 0)).then fun _ =>
      (attempts_moveSeq _).nak.then fun _ => (attempts_receive receiveCauses_subset_nakCauses _ _).nak.then fun p =>
        (writeBuf p).then fun _ => ends_raise fun s => ⟨s, _, _, _, (State.Works.refl s).naks, by decide, rfl⟩

theorem receiveWrite_ends (bound : Rat) : Ends State.Acks State.WriteFails (receiveWrite bound) := by
  refine (attempts_moveSeq _).thenAcks fun _ =>
    (attempts_receive receiveCauses_subset_writeCauses _ _).thenAcks fun h =>
      (attempts_checkSlave (by decide) _).thenAcks fun _ => ?_
  split
  · exact receiveAck_ends _ _
  · exact ends_mono (receiveNak_ends _ _) (fun _ _ => False.elim) fun _ _ fails => .inr (.inr fails)

theorem endWrite_ends (bound : Rat) : Ends State.WriteEnds State.WriteFails (endWrite bound) := by
  have finish : Ends (fun s t : State => s.Works t ∧ t.Idle ∧ t.status = 0) (fun _ _ => False) finishTransport :=
    ends_update fun _ => ⟨rfl, ⟨rfl, rfl, rfl⟩, rfl⟩
  refine ends_bind_of (receiveWrite_ends bound) (fun _ => finish) ?_ (fun _ _ => id) fun _ _ _ _ => False.elim
  rintro s t u ⟨a, n, acks⟩ ⟨same, ended⟩
  exact ⟨⟨a, n, Eq.trans same acks⟩, ended⟩

/-- The operand checks of a write clear `RDCNT` when they raise (R163). -/
theorem checkWrite_ends (addr : Word) (n : Nat) :
    Ends State.Works (State.Fails State.Clears [.countRange, .addrRange]) (checkWrite addr n) := by
  have checks : Attempts [.countRange, .addrRange] (do checkCount n maxWr; checkAddr addr n) :=
    (attempts_require _ (by decide) _ _).then fun _ => attempts_require _ (by decide) _ _
  refine ends_onFault checks ?_
  rintro s _ ⟨u, c, i0, i1, same, mem, rfl⟩
  exact ⟨{ u with rdcnt := 0 }, c, i0, i1, (congrArg (fun w : State => { w with rdcnt := 0 }) same :), mem, rfl⟩

theorem beginWrite_ends (addr : Word) (v : List Word) (bound : Rat) :
    Ends State.Works State.WriteFails (beginWrite addr v bound) := by
  have clear : Attempts writeCauses (update fun s => { s with segcnt := 0 }) := attempts_update fun _ => rfl
  have send : Attempts writeCauses (do checkLink; startTransaction; sendWrite addr v bound) :=
    (attempts_checkLink (by decide)).then fun _ => attempts_startTransaction.then fun _ =>
      (attempts_inspect _).then fun _ => attempts_sendRequest (by decide) _ _
  refine clear.thenWrites (P := State.Works) (fun _ _ _ h k => h.trans k) fun _ => ?_
  exact ends_bind_of (checkWrite_ends addr v.length) (fun _ => send) (fun _ _ _ h k => State.Works.trans h k)
    (fun _ _ fails => .inr (.inl fails)) fun _ _ _ h k => .inl (k.after fun _ => h.trans)

theorem opWrW_ends (addr : Word) (v : List Word) (tmo : Option Rat) :
    Ends State.WriteEnds State.WriteFails (opWrW addr v tmo) := fun s =>
  ends_bind_of (P := State.WriteEnds) (beginWrite_ends addr v (s.bound tmo)) (fun _ => endWrite_ends (s.bound tmo))
    (fun _ _ _ h ⟨acks, ended⟩ => ⟨State.Works.acks_trans h acks, ended⟩) (fun _ _ => id)
    (fun _ _ _ h k => State.Works.writeFails h k) s

end

/-- The ten causes a write can raise (41_transport.md R200). -/
def writeFaults : List Cause :=
  [.countRange, .addrRange, .linkNotOpen, .writeFail, .streamClosed, .noResponse, .shortResponse, .wrongSlave,
    .crcMismatch, .writeNak]

/-- Those of them that are never raised on the failure path. -/
def earlyWriteFaults : List Cause :=
  [.countRange, .addrRange, .linkNotOpen, .writeFail, .wrongSlave, .crcMismatch]

/-- What O31 says of a write. -/
abbrev State.WriteOutcome (s t : State) : Prop :=
  s.SameOutsideTransport t ∧ t.busy = false ∧ t.seq = .idle ∧ t.pend = none ∧ t.rdb = s.rdb ∧
  (t.rdcnt = if t.status = 0x82 ∨ t.status = 0x83 then 0 else s.rdcnt) ∧
  ((t.status = 0 ∧ t.info0 = s.info0 ∧ t.info1 = s.info1 ∧ t.fsticky = s.fsticky ∧ t.errfunc = s.errfunc ∧
      t.errlen = s.errlen ∧ t.errbuf = s.errbuf) ∨
    (t.echoaddr = s.echoaddr ∧ t.echocnt = s.echocnt ∧
      ∃ c ∈ writeFaults, t.status = c.status ∧ t.fsticky = s.fsticky ||| c.kind.stickyBit ∧
        (c ∈ earlyWriteFaults → t.errfunc = s.errfunc ∧ t.errlen = s.errlen ∧ t.errbuf = s.errbuf)))

section

variable {s t : State}

theorem State.WriteEnds.outcome (h : s.WriteEnds t) : s.WriteOutcome t := by
  obtain ⟨⟨_, _, same⟩, ⟨seq, busy, pend⟩, status⟩ := h
  refine ⟨State.sameOutsideTransport_of_outside (congrArg State.outside same :), busy, seq, pend,
    (congrArg State.rdb same :), ?_, .inl ⟨status, (congrArg State.info0 same :), (congrArg State.info1 same :),
      (congrArg State.fsticky same :), (congrArg State.errfunc same :), (congrArg State.errlen same :),
      (congrArg State.errbuf same :)⟩⟩
  rw [status, if_neg (by decide)]
  exact (congrArg State.rdcnt same :)

/-- A fault, by what the state it is raised at has stored. -/
theorem State.raise_writeOutcome {n : BitVec 17} {fn len : Byte} {p : Memory} {c : Cause}
    (same : t.still = { s.still with rdcnt := n, errfunc := fn, errlen := len, errbuf := p })
    (listed : c ∈ writeFaults) (count : n = if c.status = 0x82 ∨ c.status = 0x83 then 0 else s.rdcnt)
    (kept : c ∈ earlyWriteFaults → fn = s.errfunc ∧ len = s.errlen ∧ p = s.errbuf) (i0 i1 : Int) :
    s.WriteOutcome (t.raise c i0 i1) := by
  refine ⟨State.sameOutsideTransport_of_outside (congrArg State.outside same :), rfl, rfl, rfl,
    (congrArg State.rdb same :), Eq.trans (congrArg State.rdcnt same :) count,
    .inr ⟨(congrArg State.echoaddr same :), (congrArg State.echocnt same :), c, listed, rfl,
      (congrArg (fun w : State => w.fsticky ||| c.kind.stickyBit) same :), fun early => ?_⟩⟩
  obtain ⟨rfl, rfl, rfl⟩ := kept early
  exact ⟨(congrArg State.errfunc same :), (congrArg State.errlen same :), (congrArg State.errbuf same :)⟩

/-- The causes of the operand checks are told by their codes; those of the failure path are none of the early ones. -/
theorem State.WriteFails.outcome (h : s.WriteFails t) : s.WriteOutcome t := by
  rcases h with ⟨u, c, i0, i1, same, mem, rfl⟩ | ⟨u, c, i0, i1, same, mem, rfl⟩ |
    ⟨u, c, i0, i1, ⟨_, _, _, same⟩, mem, rfl⟩
  · have sorted : ∀ c ∈ writeCauses, c ∈ writeFaults ∧ ¬(c.status = 0x82 ∨ c.status = 0x83) := by decide
    obtain ⟨listed, other⟩ := sorted c mem
    exact State.raise_writeOutcome same listed (if_neg other).symm (fun _ => ⟨rfl, rfl, rfl⟩) i0 i1
  · have sorted : ∀ c ∈ [Cause.countRange, .addrRange], c ∈ writeFaults ∧ (c.status = 0x82 ∨ c.status = 0x83) := by
      decide
    obtain ⟨listed, refused⟩ := sorted c mem
    exact State.raise_writeOutcome same listed (if_pos refused).symm (fun _ => ⟨rfl, rfl, rfl⟩) i0 i1
  · have sorted : ∀ c ∈ nakCauses,
        c ∈ writeFaults ∧ ¬(c.status = 0x82 ∨ c.status = 0x83) ∧ c ∉ earlyWriteFaults := by decide
    obtain ⟨listed, other, late⟩ := sorted c mem
    exact State.raise_writeOutcome same listed (if_neg other).symm (fun early => absurd early late) i0 i1

end

theorem writeOutcome_of_ends {op : Engine Unit} (h : Ends State.WriteEnds State.WriteFails op) (s : State) :
    s.WriteOutcome (runOp op s) :=
  (ends_runOp h s).elim State.WriteEnds.outcome State.WriteFails.outcome

/-- Settles O31: WR.W and WR.BUF end as `opWrW_ends` says. -/
theorem writeOutcomes : Obligations.WriteOutcomes := by
  intro s t addr v tmo i write h
  rw [exec_write write] at h
  obtain rfl := Host.Outcome.next.inj h
  exact writeOutcome_of_ends (opWrW_ends addr v tmo) s

/-! ### Steps -/

/-- The engine's own move keeps what is yet to be presented. -/
theorem State.completePending_inbox (s : State) (p : Pending) : (s.completePending p).inbox = s.inbox := by
  obtain ⟨awaited, bound⟩ := p
  cases awaited with
  | read count =>
    have ended : Ends (State.ReadEnds (count.setWidth 17)) State.ReadFails
        (onFault (endRead count bound) State.readFailed) :=
      ends_onFault (endRead_ends count bound) fun _ u fails => ⟨u, fails, rfl⟩
    obtain ⟨same, _⟩ := readOutcome_of_ends ended s
    exact same.inbox
  | write =>
    obtain ⟨same, _⟩ := writeOutcome_of_ends (endWrite_ends bound) s
    exact same.inbox

theorem engineMove_of_pend {s : State} {q : Pending} (h : s.pend = some q) :
    engineMove s = .next (s.completePending q) := by
  simp only [engineMove, h]

/-- Settles O4: which of its branches a step takes; the engine's own move ends idle and keeps the inbox. -/
theorem stepRunsDecoded : Obligations.StepRunsDecoded := by
  refine ⟨fun s p rest i inbox takes decoded => ?_, fun s p rest q inbox busy host pend => ?_,
    fun s q inbox pend => ?_, fun s inbox idle pend => ?_⟩
  · have taken : ¬(s.busy && !Packet.fromDevice p) = true := by
      rcases takes with idle | device
      · simp [idle]
      · simp [device]
    simp only [step, inbox]
    rw [if_neg taken, takePacket, decoded]
  · have moved : step s = .next (s.completePending q) := by
      simp only [step, inbox]
      rw [if_pos (by simp [busy, host]), engineMove_of_pend pend]
    obtain ⟨_, _, idle, _⟩ := s.completePending_settles (W := []) q
    exact ⟨moved, s.completePending_inbox q, idle⟩
  · simp only [step, inbox]
    exact engineMove_of_pend pend
  · simp only [step, inbox, engineMove, pend, idle]
    rfl

end Sys2Proof.Machine

/-! No request is sent twice (41_transport.md R167): an operation sends what its request halves send, in order, and its
response halves send nothing. -/

namespace Sys2Proof.Machine

/-! ### Pieces that send nothing, pieces that send one frame -/

/-- Nothing has been sent, and the parameters and the place in a block are kept. -/
abbrev State.Quiet (s t : State) : Prop := t.sent = s.sent ∧ t.cfg = s.cfg ∧ t.cur = s.cur ∧ t.rem = s.rem

/-- The frame has been sent, which may depend on the address of the device. -/
abbrev State.Sends (frame : Byte → List Byte) (s t : State) : Prop :=
  t.sent = s.sent ++ frame s.cfg.slaveAddr ∧ t.cfg = s.cfg ∧ t.cur = s.cur ∧ t.rem = s.rem

/-- The first bytes of the frame have been sent, none or all of them at the extremes. -/
abbrev State.SendsPart (frame : Byte → List Byte) (s t : State) : Prop :=
  ∃ p, p <+: frame s.cfg.slaveAddr ∧ t.sent = s.sent ++ p

/-- An operation that sends nothing, however it ends. -/
abbrev Silent {α : Type} (op : Engine α) : Prop := Keeps State.Quiet op

/-- An operation that sends one frame, or only its first bytes if a raise ends it. -/
abbrev Emits {α : Type} (frame : Byte → List Byte) (op : Engine α) : Prop :=
  Ends (State.Sends frame) (State.SendsPart frame) op

theorem State.Quiet.refl (s : State) : s.Quiet s := ⟨rfl, rfl, rfl, rfl⟩

theorem State.Quiet.trans {s t u : State} (h : s.Quiet t) (k : t.Quiet u) : s.Quiet u :=
  ⟨k.1.trans h.1, k.2.1.trans h.2.1, k.2.2.1.trans h.2.2.1, k.2.2.2.trans h.2.2.2⟩

section

variable {α β : Type} {frame : Byte → List Byte}

theorem State.Quiet.sendsPart {s t u : State} (h : s.Quiet t) (k : t.SendsPart frame u) : s.SendsPart frame u := by
  obtain ⟨sent, cfg, _⟩ := h
  obtain ⟨p, part, sent'⟩ := k
  exact ⟨p, cfg ▸ part, by rw [sent', sent]⟩

theorem State.Quiet.sendsNone {s t : State} (h : s.Quiet t) : s.SendsPart frame t :=
  ⟨[], List.nil_prefix, by rw [h.1, List.append_nil]⟩

theorem State.Sends.sendsPart {s t : State} (h : s.Sends frame t) : s.SendsPart frame t :=
  ⟨frame s.cfg.slaveAddr, List.prefix_rfl, h.1⟩

theorem Silent.then {x : Engine α} {f : α → Engine β} (hx : Silent x) (hf : ∀ a, Silent (f a)) : Silent (x >>= f) :=
  ends_bind (P := State.Quiet) (Q := State.Quiet) (fun _ _ _ h k => h.trans k) (fun _ _ _ h k => h.trans k) hx hf

theorem Silent.thenEmits {x : Engine α} {f : α → Engine β} (hx : Silent x) (hf : ∀ a, Emits frame (f a)) :
    Emits frame (x >>= f) := by
  refine ends_bind_of hx hf ?_ (fun _ _ h => h.sendsNone) fun _ _ _ h k => h.sendsPart k
  rintro s t u ⟨sent, cfg, cur, rem⟩ ⟨sent', cfg', cur', rem'⟩
  exact ⟨by rw [sent', sent, cfg], cfg'.trans cfg, cur'.trans cur, rem'.trans rem⟩

theorem Emits.thenSilent {x : Engine α} {f : α → Engine β} (hx : Emits frame x) (hf : ∀ a, Silent (f a)) :
    Emits frame (x >>= f) := by
  have after {s t u : State} (h : s.Sends frame t) (k : t.Quiet u) : s.Sends frame u := by
    obtain ⟨sent, cfg, cur, rem⟩ := h
    obtain ⟨sent', cfg', cur', rem'⟩ := k
    exact ⟨by rw [sent', sent], cfg'.trans cfg, cur'.trans cur, rem'.trans rem⟩
  exact ends_bind_of hx hf (fun _ _ _ => after) (fun _ _ => id) fun _ _ _ h k => (after h k).sendsPart

theorem silent_update {f : State → State} (h : ∀ s : State, s.Quiet (f s)) : Silent (update f) := ends_update h

theorem silent_moveSeq (q : Seq) : Silent (moveSeq q) := silent_update fun s => .refl s

theorem silent_inspect (f : State → α) : Silent (inspect f) := ends_inspect .refl f

theorem silent_require (p : Prop) [Decidable p] (c : Cause) (i0 i1 : Int) : Silent (require p c i0 i1) :=
  ends_require .refl fun s => .refl s

theorem silent_receive (n : Nat) (bound : Rat) : Silent (receive n bound) :=
  ends_receive .refl (fun s _ _ _ => .refl s) (fun s _ _ _ _ _ _ _ => .refl s) n bound

theorem silent_checkSlave (h : Byte) : Silent (checkSlave h) := (silent_inspect _).then fun _ => silent_require _ _ _ _

theorem silent_checkLink : Silent checkLink := (silent_inspect _).then fun _ => silent_require _ _ _ _

theorem silent_receiveRead (count : Word) (bound : Rat) : Silent (receiveRead count bound) :=
  (silent_moveSeq _).then fun _ => (silent_receive _ _).then fun _ => (silent_checkSlave _).then fun _ =>
    (silent_require _ _ _ _).then fun _ => (silent_moveSeq _).then fun _ => (silent_receive _ _).then fun _ =>
      (silent_moveSeq _).then fun _ => (silent_require _ _ _ _).then fun _ => (silent_require _ _ _ _).then fun _ =>
        ends_pure .refl _

theorem silent_finishTransport : Silent finishTransport := silent_update fun s => .refl s

theorem silent_endRead (count : Word) (bound : Rat) : Silent (endRead count bound) := by
  have deliver (w : List Word) :
      Silent (update fun s => { s with rdb := cellsWriteAll s.rdb 0 w, rdcnt := count.setWidth 17 }) :=
    silent_update fun s => .refl s
  exact (silent_receiveRead count bound).then fun w => (deliver w).then fun _ => silent_finishTransport

theorem silent_receiveAck (h : List Byte) (bound : Rat) : Silent (receiveAck h bound) :=
  (silent_moveSeq _).then fun _ => (silent_receive _ _).then fun _ => (silent_moveSeq _).then fun _ =>
    (silent_require _ _ _ _).then fun _ => silent_update fun s => .refl s

theorem silent_receiveNak (fn : Byte) (bound : Rat) : Silent (receiveNak fn bound) := by
  have writeFunc : Silent (update fun s => { s with errfunc := fn }) := silent_update fun s => .refl s
  have writeLen (len : Byte) : Silent (update fun s => { s with errlen := len }) := silent_update fun s => .refl s
  have writeBuf (p : List Byte) : Silent (update fun s => { s with errbuf := cellsWriteAll s.errbuf 0 p }) :=
    silent_update fun s => .refl s
  exact writeFunc.then fun _ => (silent_moveSeq _).then fun _ => (silent_receive _ _).then fun l =>
    (writeLen (byteAt l 0)).then fun _ => (silent_moveSeq _).then fun _ => (silent_receive _ _).then fun p =>
      (writeBuf p).then fun _ => ends_raise fun s => .refl s

theorem silent_endWrite (bound : Rat) : Silent (endWrite bound) := by
  have response : Silent (receiveWrite bound) := by
    refine (silent_moveSeq _).then fun _ => (silent_receive _ _).then fun h => (silent_checkSlave _).then fun _ => ?_
    split
    · exact silent_receiveAck _ _
    · exact silent_receiveNak _ _
  exact response.then fun _ => silent_finishTransport

/-! ### Requests -/

theorem emits_sendRequest (q : List Byte) (p : Pending) : Emits (fun _ => sealFrame q) (sendRequest q p) := by
  have send : Emits (fun _ => sealFrame q) (transmit (sealFrame q)) :=
    ends_transmit _ (fun s => ⟨rfl, s.txDrawn_cfg, s.txDrawn_cur, s.txDrawn_rem⟩)
      fun s n => ⟨(sealFrame q).take n, List.take_prefix _ _, rfl⟩
  have clear : Silent (update fun s => { s with rxacc := [], seq := .tx }) := silent_update fun s => .refl s
  have wait : Silent (update fun s => { s with seq := .rx1, pend := some p }) := silent_update fun s => .refl s
  exact clear.thenEmits fun _ => send.thenSilent fun _ => wait

theorem emits_sendRead (addr count : Word) (bound : Rat) :
    Emits (readRequest · addr count) (sendRead addr count bound) := fun s =>
  emits_sendRequest (readBody s.cfg.slaveAddr addr count) ⟨.read count, bound⟩ s

theorem emits_sendWrite (addr : Word) (v : List Word) (bound : Rat) :
    Emits (writeRequest · addr v) (sendWrite addr v bound) := fun s =>
  emits_sendRequest (writeBody s.cfg.slaveAddr addr v) ⟨.write, bound⟩ s

theorem silent_startTransaction : Silent startTransaction := silent_update fun s => .refl s

theorem silent_clearCounts : Silent (update fun s => { s with rdcnt := 0, segcnt := 0 }) :=
  silent_update fun s => .refl s

theorem emits_beginRead (addr count : Word) (bound : Rat) :
    Emits (readRequest · addr count) (beginRead addr count bound) :=
  silent_clearCounts.thenEmits fun _ => (silent_require _ _ _ _).thenEmits fun _ =>
    (silent_require _ _ _ _).thenEmits fun _ => silent_checkLink.thenEmits fun _ =>
      silent_startTransaction.thenEmits fun _ => emits_sendRead addr count bound

theorem silent_checkWrite (addr : Word) (n : Nat) : Silent (checkWrite addr n) :=
  ends_onFault ((silent_require _ _ _ _).then fun _ => silent_require _ _ _ _) fun _ _ quiet => quiet

theorem emits_beginWrite (addr : Word) (v : List Word) (bound : Rat) :
    Emits (writeRequest · addr v) (beginWrite addr v bound) := by
  have clear : Silent (update fun s => { s with segcnt := 0 }) := silent_update fun s => .refl s
  exact clear.thenEmits fun _ => (silent_checkWrite _ _).thenEmits fun _ => silent_checkLink.thenEmits fun _ =>
    silent_startTransaction.thenEmits fun _ => emits_sendWrite addr v bound

/-! ### Whole operations -/

theorem sendsPart_of_emits {op : Engine α} (h : Emits frame op) (s : State) : s.SendsPart frame (runOp op s) :=
  (ends_runOp h s).elim State.Sends.sendsPart id

theorem emits_opRdW (addr count : Word) (tmo : Option Rat) :
    Emits (readRequest · addr count) (opRdW addr count tmo) :=
  (silent_inspect _).thenEmits fun _ =>
    ends_onFault ((emits_beginRead _ _ _).thenSilent fun _ => silent_endRead _ _) fun _ _ part => part

theorem emits_opWrW (addr : Word) (v : List Word) (tmo : Option Rat) :
    Emits (writeRequest · addr v) (opWrW addr v tmo) :=
  (silent_inspect _).thenEmits fun _ => (emits_beginWrite _ _ _).thenSilent fun _ => silent_endWrite _

end

/-! ### The segments of RD.BUF -/

/-- Of the requests of the segments from `CUR` on, one after the other, the first bytes have been sent. -/
abbrev State.SendsSegments (s t : State) : Prop :=
  s.cur.toNat + s.rem.toNat ≤ 65536 →
    ∃ p, p <+: segmentRequests s.cfg.slaveAddr s.cur.toNat s.rem.toNat ∧ t.sent = s.sent ++ p

/-- The request of the segment at `CUR`. -/
def State.segmentRequest (s : State) : List Byte :=
  readRequest s.cfg.slaveAddr (BitVec.ofNat 16 s.cur.toNat) (BitVec.ofNat 16 (min s.rem.toNat 125))

theorem State.segmentRequests_eq {s : State} (pos : 0 < s.rem.toNat) :
    segmentRequests s.cfg.slaveAddr s.cur.toNat s.rem.toNat =
      s.segmentRequest ++ segmentRequests s.cfg.slaveAddr (s.cur.toNat + min s.rem.toNat 125)
        (s.rem.toNat - min s.rem.toNat 125) :=
  segmentRequests_of_pos _ _ pos

/-- One segment sends its request and moves on, or a raise ends it within its request. -/
theorem readSegment_sends (total : BitVec 17) (bound : Rat) {s : State} (range : s.cur.toNat + s.rem.toNat ≤ 65536) :
    (∀ a t, readSegment total bound s = .ok a t → t.sent = s.sent ++ s.segmentRequest ∧ t.cfg = s.cfg ∧
      t.cur.toNat = s.cur.toNat + min s.rem.toNat 125 ∧ t.rem.toNat = s.rem.toNat - min s.rem.toNat 125) ∧
    ∀ e t, readSegment total bound s = .error e t → ∃ p, p <+: s.segmentRequest ∧ t.sent = s.sent ++ p := by
  generalize count : min s.rem.toNat 125 = k
  have start : s.cur.setWidth 16 = BitVec.ofNat 16 s.cur.toNat := by
    apply BitVec.eq_of_toNat_eq
    simp
  have exchange : Emits (readRequest · (BitVec.ofNat 16 s.cur.toNat) (BitVec.ofNat 16 k))
      (memRead (s.cur.setWidth 16) (BitVec.ofNat 16 k) bound) := by
    rw [start]
    exact (emits_sendRead _ _ bound).thenSilent fun _ => silent_receiveRead _ bound
  have begins : readSegment total bound s =
      (memRead (s.cur.setWidth 16) (BitVec.ofNat 16 k) bound >>= fun w => update fun t =>
        { t with
          rdb := cellsWriteAll t.rdb (total.toNat - s.rem.toNat) w, cur := s.cur + BitVec.ofNat 17 k
          rem := s.rem - BitVec.ofNat 17 k, seq := .nextSeg }) { s with busy := true, segcnt := s.segcnt + 1 } := by
    rw [← count]
    rfl
  obtain ⟨whole, part⟩ := exchange { s with busy := true, segcnt := s.segcnt + 1 }
  rw [begins, engine_bind_apply, State.segmentRequest, count]
  cases read : memRead (s.cur.setWidth 16) (BitVec.ofNat 16 k) bound
      { s with busy := true, segcnt := s.segcnt + 1 } with
  | ok w u =>
    obtain ⟨sent, cfg, _, _⟩ := whole w u read
    refine ⟨fun a t e => ?_, fun e t h => by simp at h⟩
    cases e
    refine ⟨sent, cfg, ?_, ?_⟩
    · simp only [BitVec.toNat_add, BitVec.toNat_ofNat]
      omega
    · simp only [BitVec.toNat_sub, BitVec.toNat_ofNat]
      omega
  | error e u =>
    refine ⟨fun a t h => by simp at h, fun e' t h => ?_⟩
    cases h
    exact part e _ read

theorem readSegments_sends (total : BitVec 17) (bound : Rat) (fuel : Nat) :
    Keeps State.SendsSegments (readSegments total bound fuel) := by
  have nothing : Keeps State.SendsSegments (pure () : Engine Unit) :=
    ends_pure (fun s _ => ⟨[], List.nil_prefix, (List.append_nil _).symm⟩) ()
  induction fuel with
  | zero => exact nothing
  | succ fuel ih =>
    intro s
    rw [readSegments, inspect_bind]
    by_cases done : s.rem = 0
    · rw [if_pos done]
      exact nothing s
    · have pos : 0 < s.rem.toNat := Nat.pos_of_ne_zero fun zero => done (BitVec.eq_of_toNat_eq zero)
      rw [if_neg done, engine_bind_apply]
      cases first : readSegment total bound s with
      | ok a u =>
        have others {t : State} (h : u.SendsSegments t) : s.SendsSegments t := by
          intro range
          obtain ⟨sent, cfg, cur, rem⟩ := (readSegment_sends total bound range).1 a u first
          obtain ⟨p, part, sent'⟩ := h (by omega)
          rw [cur, rem, cfg] at part
          refine ⟨s.segmentRequest ++ p, ?_, by rw [sent', sent, List.append_assoc]⟩
          rw [State.segmentRequests_eq pos]
          exact (List.prefix_append_right_inj _).2 part
        exact ⟨fun b t h => others ((ih u).1 b t h), fun e t h => others ((ih u).2 e t h)⟩
      | error e u =>
        refine ⟨fun b t h => by simp at h, fun e' t h range => ?_⟩
        cases h
        obtain ⟨p, part, sent⟩ := (readSegment_sends total bound range).2 e u first
        refine ⟨p, ?_, sent⟩
        rw [State.segmentRequests_eq pos]
        exact part.trans (List.prefix_append _ _)

theorem Silent.thenSendsPart {α β : Type} {frame : Byte → List Byte} {x : Engine α} {f : α → Engine β} (hx : Silent x)
    (hf : ∀ a, Keeps (State.SendsPart frame) (f a)) : Keeps (State.SendsPart frame) (x >>= f) :=
  ends_bind_of hx hf (fun _ _ _ h k => h.sendsPart k) (fun _ _ h => h.sendsNone) fun _ _ _ h k => h.sendsPart k

theorem opRdBuf_sends (addr : Word) (total : Nat) (tmo : Option Rat) :
    Keeps (State.SendsPart (segmentRequests · addr.toNat total)) (opRdBuf addr total tmo) := by
  refine (silent_inspect _).thenSendsPart fun bound => ends_onFault ?_ fun _ _ part => part
  refine silent_clearCounts.thenSendsPart fun _ => ?_
  refine ends_bind_yields (yields_require _ _ _ _) (silent_require _ _ _ _) (fun _ range => ?_)
    (fun _ _ _ h k => h.sendsPart k) (fun _ _ h => h.sendsNone) fun _ _ _ h k => h.sendsPart k
  refine silent_checkLink.thenSendsPart fun _ s => ?_
  have count : Silent (update fun s => { s with rdcnt := BitVec.ofNat 17 total }) := silent_update fun s => .refl s
  have block : Keeps State.SendsSegments (do
      readSegments (BitVec.ofNat 17 total) bound (segmentCount total)
      update fun s => { s with rdcnt := BitVec.ofNat 17 total }
      finishTransport) := by
    have after {s t u : State} (h : s.SendsSegments t) (k : t.Quiet u) : s.SendsSegments u := by
      intro range
      obtain ⟨p, part, sent⟩ := h range
      exact ⟨p, part, k.1.trans sent⟩
    exact ends_bind_of (readSegments_sends _ _ _) (fun _ => count.then fun _ => silent_finishTransport)
      (fun _ _ _ => after) (fun _ _ => id) fun _ _ _ => after
  have fromStart {t : State} (h : State.SendsSegments
      { s with busy := true, cur := addr.setWidth 17, rem := BitVec.ofNat 17 total } t) :
      s.SendsPart (segmentRequests · addr.toNat total) t := by
    have cur : (addr.setWidth 17).toNat = addr.toNat := by simp; omega
    have rem : (BitVec.ofNat 17 total).toNat = total := by simp; omega
    obtain ⟨p, part, sent⟩ := h (by simp only [cur, rem]; exact range)
    simp only [cur, rem] at part
    exact ⟨p, part, sent⟩
  obtain ⟨normal, fault⟩ := block
    { s with busy := true, cur := addr.setWidth 17, rem := BitVec.ofNat 17 total }
  exact ⟨fun a t h => fromStart (normal a t h), fun e t h => fromStart (fault e t h)⟩

/-- Settles O32: RD.W and a write send one frame, RD.BUF one for each segment. -/
theorem sentOnce : Obligations.SentOnce := by
  intro s t addr count total v tmo
  refine ⟨fun h => ?_, fun h => ?_, fun i write h => ?_⟩
  · obtain rfl := Host.Outcome.next.inj h
    exact sendsPart_of_emits (emits_opRdW addr count tmo) s
  · obtain rfl := Host.Outcome.next.inj h
    exact keeps_runOp (opRdBuf_sends addr total.toNat tmo) s
  · rw [exec_write write] at h
    obtain rfl := Host.Outcome.next.inj h
    exact sendsPart_of_emits (emits_opWrW addr v tmo) s

end Sys2Proof.Machine

/-! Two runs of one operation that the operation cannot tell apart (41_transport.md R170, R180).

`Simulates R op`: from states related by `R` the operation ends in the same way, in states related by `R`. A request
does not see what waits in the receive stream, so a request move commutes with the answer that arrives after it. -/

namespace Sys2Proof.Machine

/-! ### Simulation -/

/-- Both runs end normally with the same result, or both by a raise, in states related by `R`. -/
inductive EndsAlike {α : Type} (R : State → State → Prop) :
    EStateM.Result Unit State α → EStateM.Result Unit State α → Prop
  | ok (a : α) {s t : State} : R s t → EndsAlike R (.ok a s) (.ok a t)
  | error (e : Unit) {s t : State} : R s t → EndsAlike R (.error e s) (.error e t)

/-- The operation cannot tell related states apart. -/
abbrev Simulates {α : Type} (R : State → State → Prop) (op : Engine α) : Prop :=
  ∀ s t, R s t → EndsAlike R (op s) (op t)

section

variable {α β : Type} {R : State → State → Prop}

theorem simulates_pure (a : α) : Simulates R (pure a : Engine α) := fun _ _ h => .ok a h

theorem simulates_update {f : State → State} (hf : ∀ s t, R s t → R (f s) (f t)) : Simulates R (update f) :=
  fun s t h => .ok () (hf s t h)

theorem simulates_inspect {f : State → α} (hf : ∀ s t, R s t → f s = f t) : Simulates R (inspect f) := by
  intro s t h
  rw [inspect_apply, inspect_apply, hf s t h]
  exact .ok _ h

theorem Simulates.then {x : Engine α} {f : α → Engine β} (hx : Simulates R x) (hf : ∀ a, Simulates R (f a)) :
    Simulates R (x >>= f) := by
  intro s t h
  have alike := hx s t h
  rw [engine_bind_apply, engine_bind_apply]
  generalize x s = p, x t = q at alike
  cases alike with
  | ok a h => exact hf a _ _ h
  | error e h => exact .error e h

theorem simulates_require (hr : ∀ s t c i0 i1, R s t → R (s.raise c i0 i1) (t.raise c i0 i1)) (p : Prop) [Decidable p]
    (c : Cause) (i0 i1 : Int) : Simulates R (require p c i0 i1) := by
  intro s t h
  by_cases holds : p
  · rw [require_true holds, require_true holds]
    exact .ok () h
  · rw [require_false holds, require_false holds]
    exact .error () (hr s t c i0 i1 h)

theorem simulates_onFault {op : Engine α} {f : State → State} (ho : Simulates R op)
    (hf : ∀ s t, R s t → R (f s) (f t)) : Simulates R (onFault op f) := by
  intro s t h
  have alike := ho s t h
  simp only [onFault]
  generalize op s = p, op t = q at alike
  cases alike with
  | ok a h => exact .ok a h
  | error e h => exact .error e (hf _ _ h)

end

/-! ### Requests do not see the receive stream -/

/-- The same state with one more answer waiting in the receive stream. -/
abbrev State.MoreArrived (bytes : List Byte) (s t : State) : Prop := t = s.answered bytes

section

variable {bytes : List Byte} {α : Type}

theorem State.txDrawn_answered (s : State) (bytes : List Byte) :
    (s.answered bytes).txDrawn = s.txDrawn.answered bytes := by
  simp only [State.txDrawn, State.answered]
  split <;> rfl

theorem unseen_update {f : State → State} (hf : ∀ s : State, f (s.answered bytes) = (f s).answered bytes) :
    Simulates (State.MoreArrived bytes) (update f) := by
  refine simulates_update ?_
  rintro s _ rfl
  exact hf s

theorem unseen_inspect {f : State → α} (hf : ∀ s : State, f s = f (s.answered bytes)) :
    Simulates (State.MoreArrived bytes) (inspect f) := by
  refine simulates_inspect ?_
  rintro s _ rfl
  exact hf s

theorem unseen_require (p : Prop) [Decidable p] (c : Cause) (i0 i1 : Int) :
    Simulates (State.MoreArrived bytes) (require p c i0 i1) := by
  refine simulates_require ?_ p c i0 i1
  rintro s _ c i0 i1 rfl
  rfl

theorem unseen_transmit (frame : List Byte) : Simulates (State.MoreArrived bytes) (transmit frame) :=
  (unseen_inspect fun _ => rfl).then fun a => (unseen_update fun s => by rw [State.txDrawn_answered]; rfl).then fun _ =>
    unseen_require _ _ _ _

theorem unseen_sendRequest (q : List Byte) (p : Pending) :
    Simulates (State.MoreArrived bytes) (sendRequest q p) :=
  (unseen_update fun _ => rfl).then fun _ => (unseen_transmit _).then fun _ => unseen_update fun _ => rfl

theorem unseen_checkLink : Simulates (State.MoreArrived bytes) checkLink :=
  (unseen_inspect fun _ => rfl).then fun _ => unseen_require _ _ _ _

theorem unseen_beginRead (addr count : Word) (bound : Rat) :
    Simulates (State.MoreArrived bytes) (beginRead addr count bound) :=
  (unseen_update fun _ => rfl).then fun _ => (unseen_require _ _ _ _).then fun _ =>
    (unseen_require _ _ _ _).then fun _ => unseen_checkLink.then fun _ => (unseen_update fun _ => rfl).then fun _ =>
      (unseen_inspect fun _ => rfl).then fun _ => unseen_sendRequest _ _

theorem unseen_beginWrite (addr : Word) (v : List Word) (bound : Rat) :
    Simulates (State.MoreArrived bytes) (beginWrite addr v bound) := by
  have checks : Simulates (State.MoreArrived bytes) (checkWrite addr v.length) := by
    refine simulates_onFault ((unseen_require _ _ _ _).then fun _ => unseen_require _ _ _ _) ?_
    rintro s _ rfl
    rfl
  exact (unseen_update fun _ => rfl).then fun _ => checks.then fun _ => unseen_checkLink.then fun _ =>
    (unseen_update fun _ => rfl).then fun _ => (unseen_inspect fun _ => rfl).then fun _ => unseen_sendRequest _ _

end

/-! ### A request move and the response move after it -/

theorem Simulates.answered_ok {α : Type} {bytes : List Byte} {op : Engine α} {s t : State} {a : α}
    (h : Simulates (State.MoreArrived bytes) op) (ended : op s = .ok a t) :
    op (s.answered bytes) = .ok a (t.answered bytes) := by
  have alike := h s _ rfl
  rw [ended] at alike
  generalize op (s.answered bytes) = r at alike ⊢
  cases alike with
  | ok _ same => rw [same]

theorem Simulates.answered_error {α : Type} {bytes : List Byte} {op : Engine α} {s t : State} {e : Unit}
    (h : Simulates (State.MoreArrived bytes) op) (ended : op s = .error e t) :
    op (s.answered bytes) = .error e (t.answered bytes) := by
  have alike := h s _ rfl
  rw [ended] at alike
  generalize op (s.answered bytes) = r at alike ⊢
  cases alike with
  | error _ same => rw [same]

/-- A request that has been sent is awaited as it was asked for; a raise leaves no transaction. -/
abbrev AwaitsAs {α : Type} (p : Pending) (op : Engine α) : Prop :=
  Ends (fun _ t => t.pend = some p) (State.Settles []) op

theorem Transacts.thenAwaits {α β : Type} {p : Pending} {x : Engine α} {f : α → Engine β} (hx : Transacts [] x)
    (hf : ∀ a, AwaitsAs p (f a)) : AwaitsAs p (x >>= f) :=
  hx.bind_of (P := fun _ t => t.pend = some p) (fun _ _ _ _ => id) hf

theorem sendRequest_awaits (q : List Byte) (p : Pending) : AwaitsAs p (sendRequest q p) := by
  have clear : Transacts [] (update fun s => { s with rxacc := [], seq := .tx }) :=
    transacts_update fun _ => .of_same rfl fun ⟨stores, ⟨rl, rdcnt, _⟩, status⟩ =>
      ⟨stores, ⟨rl, rdcnt, Nat.zero_le _⟩, status⟩
  have send : Transacts [] (transmit (sealFrame q)) :=
    ends_mono (transmit_follows _) (fun _ _ => And.left) fun _ _ => id
  exact clear.thenAwaits fun _ => send.thenAwaits fun _ => ends_update fun _ => rfl

theorem beginRead_awaits (addr count : Word) (bound : Rat) :
    AwaitsAs ⟨.read count, bound⟩ (beginRead addr count bound) :=
  transacts_clearCounts.thenAwaits fun _ => (transacts_require _ _ _ _).thenAwaits fun _ =>
    (transacts_require _ _ _ _).thenAwaits fun _ => commands_checkLink.transacts.thenAwaits fun _ =>
      transacts_startTransaction.thenAwaits fun _ => (commands_inspect _).transacts.thenAwaits fun _ =>
        sendRequest_awaits _ _

theorem beginWrite_awaits (addr : Word) (v : List Word) (bound : Rat) :
    AwaitsAs ⟨.write, bound⟩ (beginWrite addr v bound) := by
  have clear : Transacts [] (update fun s => { s with segcnt := 0 }) := transacts_update fun _ => .of_same rfl id
  exact clear.thenAwaits fun _ => (commands_checkWrite _ _).transacts.thenAwaits fun _ =>
    commands_checkLink.transacts.thenAwaits fun _ => transacts_startTransaction.thenAwaits fun _ =>
      (commands_inspect _).transacts.thenAwaits fun _ => sendRequest_awaits _ _

theorem onFault_bind_ok {α β : Type} {x : Engine α} {f : α → Engine β} {g : State → State} {s t : State} {a : α}
    (h : x s = .ok a t) : onFault (x >>= f) g s = onFault (f a) g t := by
  simp only [onFault, engine_bind_ok h]

/-- RDREQ and the answer after it are RD.W with the answer waiting. -/
theorem deliver_opRdreq (s : State) (addr count : Word) (bytes : List Byte) :
    (runOp (opRdreq addr count) s).deliver bytes = runOp (opRdW addr count none) (s.answered bytes) := by
  rw [opRdreq, opRdW, runOp_inspect_bind, runOp_inspect_bind]
  change (runOp (onFault (beginRead addr count s.tmo) State.readFailed) s).deliver bytes =
    runOp (onFault (beginRead addr count s.tmo >>= fun _ => endRead count s.tmo) State.readFailed) (s.answered bytes)
  obtain ⟨awaits, settles⟩ := beginRead_awaits addr count s.tmo s
  cases begun : beginRead addr count s.tmo s with
  | ok a t =>
    rw [runOp_ok (onFault_ok begun), State.deliver_of_pend (awaits a t begun), State.completePending_read, runOp, runOp,
      onFault_bind_ok ((unseen_beginRead addr count s.tmo).answered_ok begun)]
  | error e t =>
    obtain ⟨_, _, _, idle⟩ := settles e t begun
    have refused := (unseen_beginRead addr count s.tmo).answered_error (bytes := bytes) begun
    rw [runOp_error (onFault_error begun), runOp_error (onFault_error (engine_bind_error refused)),
      State.deliver_of_idle (by exact idle)]
    rfl

/-- WRREQ and the answer after it are WR.W with the answer waiting. -/
theorem deliver_opWrreq (s : State) (addr : Word) (v : List Word) (bytes : List Byte) :
    (runOp (opWrreq addr v) s).deliver bytes = runOp (opWrW addr v none) (s.answered bytes) := by
  rw [opWrreq, opWrW, runOp_inspect_bind, runOp_inspect_bind]
  change (runOp (beginWrite addr v s.tmo) s).deliver bytes =
    runOp (beginWrite addr v s.tmo >>= fun _ => endWrite s.tmo) (s.answered bytes)
  obtain ⟨awaits, settles⟩ := beginWrite_awaits addr v s.tmo s
  cases begun : beginWrite addr v s.tmo s with
  | ok a t =>
    rw [runOp_ok begun, State.deliver_of_pend (awaits a t begun), State.completePending_write, runOp, runOp,
      engine_bind_ok ((unseen_beginWrite addr v s.tmo).answered_ok begun)]
  | error e t =>
    obtain ⟨_, _, _, idle⟩ := settles e t begun
    have refused := (unseen_beginWrite addr v s.tmo).answered_error (bytes := bytes) begun
    rw [runOp_error begun, runOp_error (engine_bind_error refused), State.deliver_of_idle idle]

/-- Settles O38: the request half does not see the answer that arrives after it, and the response half receives it. -/
theorem movesMakeTheOperation : Obligations.MovesMakeTheOperation :=
  ⟨fun s addr count _ _ _ => congrArg Host.Outcome.next (deliver_opRdreq s addr count _),
    fun s addr v _ _ _ _ => congrArg Host.Outcome.next (deliver_opWrreq s addr v _),
    fun s addr v _ _ _ => congrArg Host.Outcome.next (deliver_opWrreq s addr v _)⟩

end Sys2Proof.Machine

/-! RD.BUF against a device that answers, and a fault in one of its segments (41_transport.md R190, R193). An exchange
does not see how many segments came before it: segment `j` ends as RD.W of that segment does. -/

namespace Sys2Proof.Machine

/-- Settles O28: the block is delivered by `ceil(total / 125)` transactions, one after the other. -/
theorem rdBufDelivers : Obligations.RdBufDelivers := by
  intro s addr total tmo sl dev txs es rest range link slave answers stream arrives canonical
  obtain ⟨left, inner, emptied, read⟩ := opRdBuf_segmentReplies tmo range link slave answers stream arrives
  refine ⟨_, (exec_rdBuf addr total tmo s).trans (congrArg _ (runOp_ok read)), ?same, ?count, ?inside, ?outside,
    BitVec.zero_add _, rfl, rfl, rfl, rfl, rfl, left, emptied, rfl⟩
  case same => constructor <;> and_intros <;> rfl
  case count => exact (BitVec.ofNat_toNat 17 total).trans (BitVec.setWidth_eq total)
  case inside =>
    intro k inside
    have delivered := cellsRead_writeAll (deviceWords dev addr.toNat total.toNat) s.rdb 0 k canonical (by simpa)
    rwa [Nat.zero_add, deviceWords_getD dev _ inside] at delivered
  case outside =>
    exact fun k outside => cellsRead_writeAll_other (deviceWords dev addr.toNat total.toNat) s.rdb 0 k
      (.inr (by simpa using outside))

/-! ### What an exchange sees -/

/-- `s` with blanks where an exchange does not look: the read buffer and the counts, the place in a block, what has been
sent, and the sequencer, which a request sets and a raise clears. -/
def State.view (s : State) : State :=
  { s with
    rdb := [], rdcnt := 0, segcnt := 0, cur := 0, rem := 0, sent := [], busy := false, seq := .idle, pend := none }

/-- Two runs of one exchange, the first after `a` was sent, the second after `b` was, as transaction number `n`. -/
structure State.SameExchange (a b : List Byte) (n : Word) (s t : State) : Prop where
  view : t.view = s.view
  segcnt : t.segcnt = n
  sent : ∃ p, s.sent = a ++ p ∧ t.sent = b ++ p

section

variable {a b : List Byte} {n : Word} {s t : State}

/-- A write that sends nothing and does not count. -/
theorem State.SameExchange.write (h : s.SameExchange a b n t) {f : State → State}
    (view : ∀ u : State, (f u).view = (f u.view).view) (segcnt : ∀ u : State, (f u).segcnt = u.segcnt)
    (sent : ∀ u : State, (f u).sent = u.sent) : (f s).SameExchange a b n (f t) where
  view := by rw [view, h.view, ← view]
  segcnt := (segcnt t).trans h.segcnt
  sent := by rw [sent, sent]; exact h.sent

theorem State.SameExchange.raise (h : s.SameExchange a b n t) (c : Cause) (i0 i1 : Int) :
    (s.raise c i0 i1).SameExchange a b n (t.raise c i0 i1) :=
  h.write (f := (State.raise · c i0 i1)) (fun _ => rfl) (fun _ => rfl) fun _ => rfl

theorem State.SameExchange.rxDone (h : s.SameExchange a b n t) (free : Bool) (acc : List Byte) (rest : List RxStep) :
    (s.rxDone free acc rest).SameExchange a b n (t.rxDone free acc rest) :=
  h.write (f := (State.rxDone · free acc rest)) (fun _ => rfl) (fun _ => rfl) fun _ => rfl

theorem State.view_txDrawn (s : State) (x : List Byte) :
    ({ s.txDrawn with sent := x } : State).view = s.view.txDrawn := by
  simp only [State.txDrawn, State.view]
  split <;> rfl

theorem State.SameExchange.transmitted (h : s.SameExchange a b n t) (x : List Byte) :
    ({ s.txDrawn with sent := s.sent ++ x } : State).SameExchange a b n { t.txDrawn with sent := t.sent ++ x } where
  view := by rw [State.view_txDrawn, State.view_txDrawn, h.view]
  segcnt := t.txDrawn_segcnt.trans h.segcnt
  sent := by
    obtain ⟨p, first, second⟩ := h.sent
    exact ⟨p ++ x, by rw [first, List.append_assoc], by rw [second, List.append_assoc]⟩

end

section

variable {a b : List Byte} {n : Word} {α : Type}

theorem alike_require (p : Prop) [Decidable p] (c : Cause) (i0 i1 : Int) :
    Simulates (State.SameExchange a b n) (require p c i0 i1) :=
  simulates_require (fun _ _ c i0 i1 h => h.raise c i0 i1) p c i0 i1

theorem alike_write {f : State → State} (view : ∀ u : State, (f u).view = (f u.view).view)
    (segcnt : ∀ u : State, (f u).segcnt = u.segcnt) (sent : ∀ u : State, (f u).sent = u.sent) :
    Simulates (State.SameExchange a b n) (update f) :=
  simulates_update fun _ _ h => h.write view segcnt sent

/-- A read of something that is not blanked. -/
theorem alike_inspect {f : State → α} (seen : ∀ u : State, f u = f u.view) :
    Simulates (State.SameExchange a b n) (inspect f) :=
  simulates_inspect fun s t h => by rw [seen s, seen t, h.view]

theorem alike_moveSeq (q : Seq) : Simulates (State.SameExchange a b n) (moveSeq q) :=
  alike_write (fun _ => rfl) (fun _ => rfl) fun _ => rfl

theorem alike_transmit (frame : List Byte) : Simulates (State.SameExchange a b n) (transmit frame) :=
  (alike_inspect fun _ => rfl).then fun _ => (simulates_update fun _ _ h => h.transmitted _).then fun _ =>
    alike_require _ _ _ _

theorem alike_sendRead (addr count : Word) (bound : Rat) :
    Simulates (State.SameExchange a b n) (sendRead addr count bound) := by
  have clear : Simulates (State.SameExchange a b n) (update fun s => { s with rxacc := [], seq := .tx }) :=
    alike_write (fun _ => rfl) (fun _ => rfl) fun _ => rfl
  have wait (p : Pending) :
      Simulates (State.SameExchange a b n) (update fun s => { s with seq := .rx1, pend := some p }) :=
    alike_write (fun _ => rfl) (fun _ => rfl) fun _ => rfl
  exact (alike_inspect fun _ => rfl).then fun _ => clear.then fun _ => (alike_transmit _).then fun _ => wait _

theorem alike_receive (k : Nat) (bound : Rat) : Simulates (State.SameExchange a b n) (receive k bound) := by
  intro s t h
  by_cases zero : k = 0
  · rw [zero]
    exact .ok [] h
  · have ended : t.rxEnd k bound = s.rxEnd k bound := (congrArg (State.rxEnd · k bound) h.view :)
    have free : t.rxFree k = s.rxFree k := (congrArg (State.rxFree · k) h.view :)
    simp only [receive, zero, ↓reduceIte, ended, free]
    cases s.rxEnd k bound with
    | full acc rest => exact .ok acc (h.rxDone _ _ _)
    | closed acc rest => exact .error () ((h.rxDone _ _ _).raise _ _ _)
    | timeout acc rest => exact .error () ((h.rxDone _ _ _).raise _ _ _)
    | waiting acc => exact .error () ((h.rxDone _ _ _).raise _ _ _)

theorem alike_checkSlave (h : Byte) : Simulates (State.SameExchange a b n) (checkSlave h) :=
  (alike_inspect fun _ => rfl).then fun _ => alike_require _ _ _ _

theorem alike_receiveRead (count : Word) (bound : Rat) :
    Simulates (State.SameExchange a b n) (receiveRead count bound) :=
  (alike_moveSeq _).then fun _ => (alike_receive _ _).then fun _ => (alike_checkSlave _).then fun _ =>
    (alike_require _ _ _ _).then fun _ => (alike_moveSeq _).then fun _ => (alike_receive _ _).then fun _ =>
      (alike_moveSeq _).then fun _ => (alike_require _ _ _ _).then fun _ => (alike_require _ _ _ _).then fun _ =>
        simulates_pure _

theorem alike_memRead (addr count : Word) (bound : Rat) :
    Simulates (State.SameExchange a b n) (memRead addr count bound) :=
  (alike_sendRead addr count bound).then fun _ => alike_receiveRead count bound

end

/-! ### The segments before the one that faults -/

/-- The first `j` segments answered, all of 125 words, the others yet to come. -/
theorem readSegments_answered {total : BitVec 17} (bound : Rat) (sl : Byte) (dev : Nat → Word) (txs : List TxAnswer)
    (rest : List RxStep) (fuel j : Nat) : ∀ (s : State) (addr rem : Nat) (es : List RxStep),
    125 * j ≤ rem → addr + rem ≤ 65536 → rem ≤ total.toNat → s.cur.toNat = addr → s.rem.toNat = rem →
    s.AcceptsSlave sl → s.env.tx = List.replicate j .ok ++ txs → s.env.rx = es ++ rest →
    Arrives es (segmentReplies sl dev addr (125 * j)) →
    ∃ left inner, Arrives left [] ∧ inner.cur.toNat = addr + 125 * j ∧ inner.rem.toNat = rem - 125 * j ∧
      readSegments total bound (j + fuel) s = readSegments total bound fuel
        (s.delivered (total.toNat - rem) (deviceWords dev addr (125 * j)) j
          (segmentRequests s.cfg.slaveAddr addr (125 * j)) txs (left ++ rest) inner) := by
  induction j with
  | zero =>
    intro s addr rem es _ _ _ cur remaining _ answers stream arrives
    refine ⟨es, s, by simpa [segmentReplies] using arrives, cur, remaining, ?_⟩
    have same := State.delivered_nil (tx := txs) (by simpa using answers) stream (total.toNat - rem)
    simp [segmentRequests, deviceWords, same]
  | succ j ih =>
    intro s addr rem es more range within cur remaining slave answers stream arrives
    have running : ¬ s.rem = 0 := fun zero => by simp [zero] at remaining; omega
    have whole : min rem 125 = 125 := by omega
    have replies := segmentReplies_of_pos sl dev addr (show 0 < 125 * (j + 1) by omega)
    have requests := segmentRequests_of_pos s.cfg.slaveAddr addr (show 0 < 125 * (j + 1) by omega)
    rw [show min (125 * (j + 1)) 125 = 125 by omega, show 125 * (j + 1) - 125 = 125 * j by omega] at replies requests
    rw [List.replicate_succ, List.cons_append] at answers
    rw [replies] at arrives
    obtain ⟨middle, inner, arrived, cur', remaining', first⟩ := readSegment_readReply (total := total) (addr := addr)
      (rem := rem) bound (by omega) range cur remaining slave answers stream (by rw [whole]; exact arrives)
    rw [whole] at cur' remaining' first
    obtain ⟨left, last, emptied, cur'', remaining'', others⟩ := ih
      (s.delivered (total.toNat - rem) (deviceWords dev addr 125) 1
        (readRequest s.cfg.slaveAddr (BitVec.ofNat 16 addr) (BitVec.ofNat 16 125))
        (List.replicate j .ok ++ txs) (middle ++ rest) inner)
      (addr + 125) (rem - 125) middle (by omega) (by omega) (by omega) cur' remaining' slave rfl rfl arrived
    have place : total.toNat - (rem - 125) = total.toNat - rem + (deviceWords dev addr 125).length := by
      rw [deviceWords_length]
      omega
    refine ⟨left, last, emptied, by omega, by omega, ?_⟩
    rw [Nat.succ_add, readSegments, inspect_bind, if_neg running, engine_bind_ok first, others, place,
      State.delivered_delivered, deviceWords_append, requests, Nat.add_comm 1 j,
      show 125 + 125 * j = 125 * (j + 1) by omega]
    rfl

/-! ### The segment that faults -/

/-- RD.W past its checks is one exchange, and then the delivery. -/
theorem opRdW_of_checks {s : State} {addr count : Word} (tmo : Option Rat)
    (fits : 1 ≤ count.toNat ∧ count.toNat ≤ 125) (range : addr.toNat + count.toNat ≤ 65536) (link : s.link = true) :
    opRdW addr count tmo s =
      onFault (memRead addr count (s.bound tmo) >>= fun w => (do
        update fun s => { s with rdb := cellsWriteAll s.rdb 0 w, rdcnt := count.setWidth 17 }
        finishTransport)) State.readFailed { s with rdcnt := 0, segcnt := 1, busy := true } := by
  have begun := beginRead_apply addr count (s.bound tmo) s
  rw [if_pos fits, if_pos range, if_pos link, startTransaction_bind] at begun
  have joined : (beginRead addr count (s.bound tmo) >>= fun _ => endRead count (s.bound tmo)) s =
      (sendRead addr count (s.bound tmo) >>= fun _ => endRead count (s.bound tmo))
        { s with rdcnt := 0, segcnt := 1, busy := true } := by
    rw [engine_bind_apply, begun, engine_bind_apply]
    rfl
  rw [opRdW, inspect_bind, memRead, bind_assoc]
  simp only [onFault, joined]
  rfl

/-- A fault of RD.W past its checks is one of its exchange. -/
theorem memRead_error_of_opRdW {s : State} {addr count : Word} {tmo : Option Rat}
    (fits : 1 ≤ count.toNat ∧ count.toNat ≤ 125) (range : addr.toNat + count.toNat ≤ 65536) (link : s.link = true)
    (fault : (runOp (opRdW addr count tmo) s).status ≠ 0) :
    ∃ t, memRead addr count (s.bound tmo) { s with rdcnt := 0, segcnt := 1, busy := true } = .error () t ∧
      runOp (opRdW addr count tmo) s = t.readFailed := by
  have checked := opRdW_of_checks tmo fits range link
  cases read : memRead addr count (s.bound tmo) { s with rdcnt := 0, segcnt := 1, busy := true } with
  | error e t => exact ⟨t, rfl, runOp_error (checked.trans (onFault_error (engine_bind_error read)))⟩
  | ok w t =>
    have normal := checked.trans (onFault_ok (engine_bind_ok read))
    exact absurd ((concludes_opRdW addr count tmo s).1 _ _ normal) (runOp_ok normal ▸ fault)

/-- `s` as RD.BUF begins its first segment. -/
def State.blockStarted (s : State) (addr : Word) (total : Nat) : State :=
  { s with rdcnt := 0, segcnt := 0, busy := true, cur := addr.setWidth 17, rem := BitVec.ofNat 17 total }

/-- `s` as the streams stand, `tx` and `rx` left to answer. -/
def State.withStreams (s : State) (tx : List TxAnswer) (rx : List RxStep) : State :=
  { s with env := { s.env with tx := tx, rx := rx } }

/-- `s` as a request clears `RXACC`. -/
def State.cleared (s : State) : State := { s with rxacc := [] }

/-- RD.W on the streams that `j` segments have left, and segment `j` of RD.BUF, up to their exchange. -/
theorem sameExchange_segment (s : State) (addr : Word) (total i j : Nat) (words : List Word) (frames : List Byte)
    (tx : List TxAnswer) (rx : List RxStep) (inner : State) :
    State.SameExchange s.sent (s.sent ++ frames) (BitVec.ofNat 16 (j + 1))
      (State.cleared { s.withStreams tx rx with rdcnt := 0, segcnt := 1, busy := true })
      (State.cleared { (s.blockStarted addr total).delivered i words j frames tx rx inner with
        busy := true, segcnt := 0 + BitVec.ofNat 16 j + 1 }) where
  view := rfl
  segcnt := by simp [State.cleared, BitVec.ofNat_add]
  sent := ⟨[], (List.append_nil _).symm, (List.append_nil _).symm⟩

/-- What was received before the request is not seen: the request clears it. -/
theorem memRead_error_alike {s t u : State} {a b : List Byte} {n addr count : Word} {bound : Rat}
    (h : s.cleared.SameExchange a b n t.cleared)
    (fault : memRead addr count bound s = .error () u) :
    ∃ v, memRead addr count bound t = .error () v ∧ u.SameExchange a b n v := by
  have alike : EndsAlike (State.SameExchange a b n) (memRead addr count bound s) (memRead addr count bound t) :=
    (alike_memRead addr count bound _ _ h :)
  rw [fault] at alike
  generalize memRead addr count bound t = r at alike
  cases alike with
  | error _ same => exact ⟨_, rfl, same⟩

/-- A fault of the exchange of the next segment ends the segments. -/
theorem readSegments_error {total : BitVec 17} {s t : State} {addr k : Nat} {bound : Rat} (fuel : Nat)
    (cur : s.cur.toNat = addr) (pos : 0 < s.rem.toNat) (count : min s.rem.toNat 125 = k)
    (fault : memRead (BitVec.ofNat 16 addr) (BitVec.ofNat 16 k) bound { s with busy := true, segcnt := s.segcnt + 1 } =
      .error () t) :
    readSegments total bound (fuel + 1) s = .error () t := by
  have start : s.cur.setWidth 16 = BitVec.ofNat 16 addr := by
    apply BitVec.eq_of_toNat_eq
    simp [cur]
  have running : ¬ s.rem = 0 := fun zero => by simp [zero] at pos
  have segment : readSegment total bound s = .error () t := by
    simp only [readSegment, inspect_bind, startTransaction_bind, start, maxRd, count]
    exact engine_bind_error fault
  rw [readSegments, inspect_bind, if_neg running, engine_bind_error segment]

/-- A fault of a segment ends RD.BUF. -/
theorem opRdBuf_error {s t : State} {addr : Word} {total : Nat} (tmo : Option Rat)
    (range : addr.toNat + total ≤ 65536) (link : s.link = true)
    (fault : readSegments (BitVec.ofNat 17 total) (s.bound tmo) (segmentCount total)
      (s.blockStarted addr total) = .error () t) :
    opRdBuf addr total tmo s = .error () t.readFailed := by
  rw [opRdBuf, inspect_bind]
  refine onFault_error ?_
  rw [update_bind, checkAddr_bind, if_pos range, checkLink_bind, if_pos link, update_bind]
  exact engine_bind_error fault

/-- Settles O29: the exchange that faults is that of RD.W on the streams as the answered segments leave them. -/
theorem rdBufSegmentFault : Obligations.RdBufSegmentFault := by
  intro s addr total tmo sl dev j txs es rest range link slave more answers stream arrives start count
  have all : (BitVec.ofNat 17 total.toNat).toNat = total.toNat := by simp
  have place : (addr.setWidth 17).toNat = addr.toNat := by simp; omega
  have words : count.toNat = min (total.toNat - 125 * j) 125 := by simp [count]
  have first : start.toNat = addr.toNat + 125 * j := by simp [start]; omega
  have fits : 1 ≤ count.toNat ∧ count.toNat ≤ 125 := by omega
  have inside : start.toNat + count.toNat ≤ 65536 := by omega
  obtain ⟨left, inner, emptied, cur, remaining, answered⟩ := readSegments_answered
    (total := BitVec.ofNat 17 total.toNat) (s.bound tmo) sl dev txs rest (segmentCount total.toNat - (j + 1) + 1) j
    (s.blockStarted addr total.toNat) addr.toNat total.toNat es (by omega) range (le_of_eq all.symm) place all slave
    answers stream arrives
  have fuel : j + (segmentCount total.toNat - (j + 1) + 1) = segmentCount total.toNat := by
    rw [segmentCount]
    omega
  rw [fuel] at answered
  refine ⟨left, emptied, fun u read fault => ?_⟩
  obtain rfl : runOp (opRdW start count tmo) (s.withStreams txs (left ++ rest)) = u := Host.Outcome.next.inj read
  obtain ⟨v, exchange, failed⟩ := memRead_error_of_opRdW (s := s.withStreams txs (left ++ rest)) fits inside link
    fault
  obtain ⟨w, segment, same⟩ := memRead_error_alike (sameExchange_segment s addr total.toNat _ j _ _ txs _ inner)
    exchange
  have ended := opRdBuf_error tmo range link (answered.trans
    (readSegments_error _ cur (by simp only [State.delivered, remaining]; omega)
      (by simp only [State.delivered, remaining]) segment))
  obtain ⟨p, sent, sent'⟩ := same.sent
  have idle : w.Idle := ((transacts_memRead (W := []) _ _ _ _).2 _ _ segment).2
  obtain ⟨seq, busy, pend⟩ := idle
  refine ⟨w.readFailed, p, (exec_rdBuf addr total tmo s).trans (congrArg _ (runOp_error ended)), ?_⟩
  rw [failed]
  exact ⟨(congrArg State.status same.view :), (congrArg State.info0 same.view :), (congrArg State.info1 same.view :),
    (congrArg State.fsticky same.view :), same.segcnt, rfl, busy, seq, pend, (congrArg State.rxacc same.view :),
    (congrArg State.env same.view :), sent, sent'⟩

end Sys2Proof.Machine

/-! The two casts (42_casts.md R211 to R213). Both are `clamp (rni t x) lo hi` for some bounds. `rni` is the identity on
the integers and monotone, and `clamp` is `max lo (min hi x)`; so all of R213 holds for any bounds in order, and a cast
of an integer is only its clamp. -/

namespace Sys2Proof.Machine

/-! ### Rounding and clamping -/

@[simp] theorem rni_intCast (t : RoundTie) (n : Int) : rni t (n : Rat) = n :=
  (rni_of_lt_half t (by simp)).trans (Rat.floor_intCast n)

/-- Were `rni y` below `rni x`, the two half-unit distances would leave no room between `x` and `y`. -/
theorem rni_mono (t : RoundTie) : Monotone (rni t) := by
  intro x y le
  by_contra lt
  have apart : (rni t y : Rat) + 1 ≤ rni t x := by exact_mod_cast not_le.mp lt
  have above := (rni_within_half t x).1
  have below := (rni_within_half t y).2
  have same : x = y := by linarith
  exact lt (same ▸ le_rfl)

theorem clamp_eq_max_min {α : Type} [LinearOrder α] {lo hi : α} (bounds : lo ≤ hi) (x : α) :
    clamp x lo hi = max lo (min hi x) := by
  unfold clamp
  split_ifs with below above
  · rw [max_eq_left (min_le_of_right_le below.le)]
  · rw [min_eq_left above.le, max_eq_right bounds]
  · rw [min_eq_right (not_lt.mp above), max_eq_right (not_lt.mp below)]

/-! ### A cast between any two bounds -/

section

variable (t : RoundTie) {lo hi : Int}

theorem clamp_rni_mem (bounds : lo ≤ hi) (x : Rat) : lo ≤ clamp (rni t x) lo hi ∧ clamp (rni t x) lo hi ≤ hi := by
  rw [clamp_eq_max_min bounds]
  exact ⟨le_max_left .., max_le bounds (min_le_left ..)⟩

/-- On the integers a cast only clamps: the identity between the bounds, the nearer bound outside. -/
theorem clamp_rni_intCast (bounds : lo ≤ hi) (n : Int) :
    (lo ≤ n → n ≤ hi → clamp (rni t (n : Rat)) lo hi = n) ∧ (hi < n → clamp (rni t (n : Rat)) lo hi = hi) ∧
      (n < lo → clamp (rni t (n : Rat)) lo hi = lo) := by
  rw [rni_intCast, clamp_eq_max_min bounds]
  omega

/-- A second cast sees an integer between the bounds. -/
theorem clamp_rni_idem (bounds : lo ≤ hi) (x : Rat) :
    clamp (rni t ((clamp (rni t x) lo hi : Int) : Rat)) lo hi = clamp (rni t x) lo hi :=
  have ⟨lower, upper⟩ := clamp_rni_mem t bounds x
  (clamp_rni_intCast t bounds _).1 lower upper

theorem clamp_rni_mono (bounds : lo ≤ hi) {x y : Rat} (le : x ≤ y) : clamp (rni t x) lo hi ≤ clamp (rni t y) lo hi := by
  rw [clamp_eq_max_min bounds, clamp_eq_max_min bounds]
  exact max_le_max_left lo (min_le_min_left hi (rni_mono t le))

end

/-- Settles O44: what holds of a cast between any two bounds, at the bounds of the two casts. -/
theorem castProperties : Obligations.CastProperties := by
  intro c
  have s16 : (-32768 : Int) ≤ 32767 := by decide
  have u16 : (0 : Int) ≤ 65535 := by decide
  exact ⟨fun x => ⟨clamp_rni_mem c.roundTie s16 x, clamp_rni_idem c.roundTie s16 x⟩,
    clamp_rni_intCast c.roundTie s16, fun _ _ => clamp_rni_mono c.roundTie s16,
    fun x => ⟨clamp_rni_mem c.roundTie u16 x, clamp_rni_idem c.roundTie u16 x⟩,
    clamp_rni_intCast c.roundTie u16, fun _ _ => clamp_rni_mono c.roundTie u16⟩

/-! ### The instructions -/

theorem exec_castS16 (x : Rat) (s : State) :
    exec (.castS16 x) s = .next { s with scr := castS16 s.cfg x, status := 0 } := rfl

theorem exec_castU16 (x : Rat) (s : State) :
    exec (.castU16 x) s = .next { s with scr := castU16 s.cfg x, status := 0 } := rfl

theorem castS16_eq (c : Config) (x : Rat) : castS16 c x = max (-32768) (min 32767 (rni c.roundTie x)) :=
  clamp_eq_max_min (by decide) _

theorem castU16_eq (c : Config) (x : Rat) : castU16 c x = max 0 (min 65535 (rni c.roundTie x)) :=
  clamp_eq_max_min (by decide) _

/-- Settles O42: each instruction is one write of its cast; the corner cases are computed. -/
theorem castResults : Obligations.CastResults := by
  refine ⟨fun s x => ?signed, fun s x => ?unsigned, ?corners⟩
  case signed => rw [exec_castS16, castS16_eq]
  case unsigned => rw [exec_castU16, castU16_eq]
  case corners => decide +kernel

end Sys2Proof.Machine

/-! The gain codec (43_gain.md R222 to R230). In the exact domain every conversion is its formula, so the round trips
are the rounding to one decimal and the clamp. Under `binary64` each of the six results between a code and its return
adds little to the distance from the exact value (`inBinary64_near`). The gain table is its cell function over the
indices, and a cell is the smaller of two values that rise with the code. -/

namespace Sys2Proof.Machine

/-! ### Clamping -/

theorem clamp_of_mem {lo hi x : Rat} (lower : lo ≤ x) (upper : x ≤ hi) : clamp x lo hi = x := by
  rw [clamp_eq_max_min (lower.trans upper), min_eq_right upper, max_eq_right lower]

theorem le_clamp {lo hi : Rat} (bounds : lo ≤ hi) (x : Rat) : lo ≤ clamp x lo hi := by
  rw [clamp_eq_max_min bounds]
  exact le_max_left ..

theorem clamp_le {lo hi : Rat} (bounds : lo ≤ hi) (x : Rat) : clamp x lo hi ≤ hi := by
  rw [clamp_eq_max_min bounds]
  exact max_le bounds (min_le_left ..)

/-- Strictly between its bounds the clamp has not acted. -/
theorem clamp_eq_of_between {lo hi x : Rat} (lower : lo < clamp x lo hi) (upper : clamp x lo hi < hi) :
    clamp x lo hi = x := by
  unfold clamp at *
  split_ifs at * with below above
  · exact absurd lower (lt_irrefl lo)
  · exact absurd upper (lt_irrefl hi)
  · rfl

/-- The clamp moves a number nearer to every number between its bounds. -/
theorem clamp_near {lo hi x y δ : Rat} (near : |x - y| ≤ δ) (lower : lo ≤ y) (upper : y ≤ hi) :
    |clamp x lo hi - y| ≤ δ := by
  rw [abs_le] at *
  unfold clamp
  split_ifs <;> constructor <;> linarith

/-! ### Rounding to one decimal -/

theorem rni_eq_of_near (t : RoundTie) {x : Rat} {k : Int} (near : |x - k| < 1 / 2) : rni t x = k := by
  obtain ⟨above, below⟩ := rni_within_half t x
  obtain ⟨least, most⟩ := abs_lt.1 near
  have lower : ((k - 1 : Int) : Rat) < rni t x := by push_cast; linarith
  have upper : (rni t x : Rat) < (k + 1 : Int) := by push_cast; linarith
  have := Int.cast_lt.1 lower
  have := Int.cast_lt.1 upper
  omega

theorem rni_div_ten_near (t : RoundTie) {x c δ : Rat} (near : |x - 10 * c| ≤ δ) :
    |(rni t x : Rat) / 10 - c| ≤ 1 / 20 + δ / 10 := by
  obtain ⟨above, below⟩ := rni_within_half t x
  rw [abs_le] at *
  constructor <;> linarith

theorem rni_div_ten_eq (t : RoundTie) {x c δ : Rat} (near : |x - 10 * c| ≤ δ) (small : δ < 1 / 2)
    (tenth : ∃ k : Int, c = k / 10) : (rni t x : Rat) / 10 = c := by
  obtain ⟨k, rfl⟩ := tenth
  rw [mul_div_cancel₀ (k : Rat) (by norm_num : (10 : Rat) ≠ 0)] at near
  rw [rni_eq_of_near t (near.trans_lt small)]

/-! ### The formulas in the exact domain (R222 to R226) -/

section

variable {cfg : Config} (h : cfg.num = .exact)

include h

theorem round1_exact (x : Rat) : round1 cfg x = (rni cfg.roundTie (10 * x) : Rat) / 10 := by
  rw [round1, qDiv_exact h, qMul_exact h]

theorem s2c_exact (a1 r : Rat) : s2c cfg a1 r = clamp (round1 cfg (16 * a1 * r / cfg.codeDbRatio)) (-4096) 4095 := by
  rw [s2c, qDiv_exact h, qMul_exact h, qMul_exact h]
  rfl

theorem c2s_exact (code r : Rat) : c2s cfg code r = code * cfg.codeDbRatio / (16 * r) := by
  rw [c2s, qDiv_exact h, qMul_exact h, qMul_exact h]
  rfl

theorem i2c_exact (a0 : Rat) :
    i2c cfg a0 = clamp (round1 cfg ((a0 - cfg.chainDb) / cfg.codeDbRatio)) (-4096) 1241 := by
  rw [i2c, qDiv_exact h, qSub_exact h]
  rfl

theorem c2i_exact (code : Rat) : c2i cfg code = code * cfg.codeDbRatio + cfg.chainDb := by
  rw [c2i, qAdd_exact h, qMul_exact h]

theorem effectiveCode_exact (c slope : Rat) (i : Nat) :
    effectiveCode cfg c slope i = clamp (c + i * slope / 16) 50 1241 := by
  rw [effectiveCode, qAdd_exact h, qDiv_exact h, qMul_exact h]
  rfl

end

/-! ### The instructions -/

theorem exec_gS2C (a1 r : Rat) (s : State) :
    exec (.gS2C a1 r) s = .next { s with scr := s2c s.cfg a1 r, status := 0 } := rfl

theorem exec_gC2S {r : Rat} (nonzero : r ≠ 0) (code : Rat) (s : State) :
    exec (.gC2S code r) s = .next { s with scr := c2s s.cfg code r, status := 0 } := by
  have run : opGC2S code r s = .ok () { s with scr := c2s s.cfg code r, status := 0 } := by
    rw [opGC2S, require_bind, if_pos nonzero]
    rfl
  exact congrArg Host.Outcome.next (runOp_ok run)

theorem exec_gC2S_zero (code : Rat) (s : State) : exec (.gC2S code 0) s = .next (s.raise .divZero 0 0) := by
  have run : opGC2S code 0 s = .error () (s.raise .divZero 0 0) := by
    rw [opGC2S, require_bind, if_neg (not_not.2 rfl)]
  exact congrArg Host.Outcome.next (runOp_error run)

theorem exec_gI2C (a0 : Rat) (s : State) : exec (.gI2C a0) s = .next { s with scr := i2c s.cfg a0, status := 0 } := rfl

theorem exec_gC2I (code : Rat) (s : State) :
    exec (.gC2I code) s = .next { s with scr := c2i s.cfg code, status := 0 } := rfl

theorem exec_gTable (n : BitVec 15) (ci cs bi bs : Rat) (s : State) :
    exec (.gTable n ci cs bi bs) s = .next { s with gt := gtab s.cfg n.toNat ci cs bi bs, status := 0 } := rfl

/-- Settles O45: each instruction is one write of its conversion, and the conversion is its formula. -/
theorem gainScalars : Obligations.GainScalars := by
  refine fun s h => ⟨fun a1 r => ?slope, fun code r nonzero => ?slopeBack, fun code => exec_gC2S_zero code s,
    fun a0 => ?intercept, fun code => ?interceptBack⟩
  case slope => rw [exec_gS2C, s2c_exact h, round1_exact h]
  case slopeBack => rw [exec_gC2S nonzero, c2s_exact h]
  case intercept => rw [exec_gI2C, i2c_exact h, round1_exact h]
  case interceptBack => rw [exec_gC2I, c2i_exact h]

/-! ### Round trips in the exact domain (R223, R229) -/

section

variable {cfg : Config} (h : cfg.num = .exact)

include h

theorem round1_exact_near (x : Rat) : |round1 cfg x - x| ≤ 1 / 20 := by
  have rounded := rni_div_ten_near cfg.roundTie (x := 10 * x) (c := x) (δ := 0) (by simp)
  rwa [← round1_exact h, zero_div, add_zero] at rounded

theorem round1_exact_of_tenth {c : Rat} (tenth : ∃ k : Int, c = k / 10) : round1 cfg c = c := by
  rw [round1_exact h, rni_div_ten_eq cfg.roundTie (δ := 0) (by simp) (by norm_num) tenth]

/-- Where the clamp does not act, a slope's code is off by the rounding alone. -/
theorem s2c_exact_near {a1 r : Rat} (lower : -4096 < s2c cfg a1 r) (upper : s2c cfg a1 r < 4095) :
    |s2c cfg a1 r - 16 * a1 * r / cfg.codeDbRatio| ≤ 1 / 20 := by
  rw [s2c_exact h] at lower upper ⊢
  rw [clamp_eq_of_between lower upper]
  exact round1_exact_near h _

variable (positive : 0 < cfg.codeDbRatio)

include positive

theorem i2c_c2i_exact (c : Rat) : i2c cfg (c2i cfg c) = clamp (round1 cfg c) (-4096) 1241 := by
  rw [i2c_exact h, c2i_exact h, add_sub_cancel_right, mul_div_cancel_right₀ c positive.ne']

/-- G.C2S takes the error of a code to the error of its slope. -/
theorem c2s_exact_sub {r : Rat} (nonzero : r ≠ 0) (code a1 : Rat) :
    c2s cfg code r - a1 = (code - 16 * a1 * r / cfg.codeDbRatio) * cfg.codeDbRatio / (16 * r) := by
  have ratio := positive.ne'
  rw [c2s_exact h]
  field_simp

theorem c2s_s2c_exact_near {a1 r : Rat} (nonzero : r ≠ 0) (lower : -4096 < s2c cfg a1 r) (upper : s2c cfg a1 r < 4095) :
    |c2s cfg (s2c cfg a1 r) r - a1| ≤ 5 / 100 * cfg.codeDbRatio / (16 * |r|) := by
  have near : |s2c cfg a1 r - 16 * a1 * r / cfg.codeDbRatio| ≤ 5 / 100 := by
    linarith [s2c_exact_near h lower upper]
  rw [c2s_exact_sub h positive nonzero, abs_div, abs_mul, abs_mul, abs_of_pos positive, Nat.abs_ofNat]
  gcongr

end

/-! ### Round trip under binary64 (R229) -/

/-- One rounding of a number `x` that is near `y`: the result is near `y` too, by a share of 2^-52 of a bound `size` on
`x`. The 1 absorbs the smallest subnormal number. -/
theorem inBinary64_near {x y δ size ε : Rat} (near : |x - y| ≤ δ) (bound : |y| + δ + 1 ≤ size) (small : size ≤ 2 ^ 64)
    (budget : δ + size / 2 ^ 52 ≤ ε) : |inBinary64 x - y| ≤ ε := by
  have between : |x| ≤ |y| + δ := by
    have := abs_add_le (x - y) y
    rw [sub_add_cancel] at this
    linarith
  have rounding := inBinary64_within_small (x := x) (by linarith)
  have triangle := abs_sub_le (inBinary64 x) x y
  have share : |x| / 2 ^ 52 + 1 / 2 ^ 100 ≤ size / 2 ^ 52 := by linarith
  linarith

/-- The product and the quotient of `round1`, with the rounding between them: a code of one decimal is the integer
nearest to its tenfold, so it comes back. -/
theorem round1_binary64_near {cfg : Config} (h : cfg.num = .binary64) {c x : Rat} (size : |c| ≤ 1241)
    (near : |x - c| ≤ 1 / 2 ^ 29) :
    |round1 cfg x - c| ≤ 1 / 20 + 1 / 1000000 ∧ ((∃ k : Int, c = k / 10) → |round1 cfg x - c| ≤ 1 / 1000000) := by
  have tenfold : |qMul cfg 10 x - 10 * c| ≤ 1 / 2 ^ 25 := by
    rw [qMul_binary64 h]
    refine inBinary64_near (δ := 10 / 2 ^ 29) (size := 2 ^ 14) ?_ ?_ (by norm_num) (by norm_num)
    · rw [← mul_sub, abs_mul, Nat.abs_ofNat]
      linarith
    · rw [abs_mul, Nat.abs_ofNat]
      linarith
  rw [round1, qDiv_binary64 h _ (by norm_num)]
  refine ⟨?any, fun tenth => ?decimal⟩
  case any =>
    refine inBinary64_near (size := 2 ^ 11) (rni_div_ten_near cfg.roundTie tenfold) ?_ (by norm_num) (by norm_num)
    linarith
  case decimal =>
    have returns := rni_div_ten_eq cfg.roundTie tenfold (by norm_num) tenth
    refine inBinary64_near (δ := 0) (size := 2 ^ 11) (by simp [returns]) ?_ (by norm_num) (by norm_num)
    linarith

section

variable {cfg : Config} (h : cfg.num = .binary64) (ratioLower : 1 / 1000 ≤ cfg.codeDbRatio)
  (ratioUpper : cfg.codeDbRatio ≤ 1000) (chain : |cfg.chainDb| ≤ 1000) {c : Rat} (size : |c| ≤ 1241)

include ratioLower size in
theorem abs_mul_codeDbRatio_le : |c * cfg.codeDbRatio| ≤ 1241 * cfg.codeDbRatio := by
  have positive : 0 < cfg.codeDbRatio := by linarith
  rw [abs_mul, abs_of_pos positive]
  gcongr

include h ratioLower ratioUpper chain size

/-- The product and the sum of G.C2I. The sum may be a million times the ratio, so its error is the largest. -/
theorem c2i_binary64_near : |c2i cfg c - (c * cfg.codeDbRatio + cfg.chainDb)| ≤ cfg.codeDbRatio / 2 ^ 31 := by
  have extent := abs_mul_codeDbRatio_le ratioLower size
  have product : |qMul cfg c cfg.codeDbRatio - c * cfg.codeDbRatio| ≤ cfg.codeDbRatio / 2 ^ 40 := by
    rw [qMul_binary64 h]
    refine inBinary64_near (δ := 0) (size := 2 ^ 12 * cfg.codeDbRatio) (by simp) ?_ ?_ ?_
    all_goals linarith
  rw [c2i, qAdd_binary64 h]
  refine inBinary64_near (δ := cfg.codeDbRatio / 2 ^ 40) (size := 2 ^ 20 * cfg.codeDbRatio) ?_ ?_ ?_ ?_
  · rwa [add_sub_add_right_eq_sub]
  · linarith [abs_add_le (c * cfg.codeDbRatio) cfg.chainDb]
  all_goals linarith

/-- The difference and the quotient of G.I2C, after G.C2I. -/
theorem code_of_c2i_binary64_near :
    |qDiv cfg (qSub cfg (c2i cfg c) cfg.chainDb) cfg.codeDbRatio - c| ≤ 1 / 2 ^ 29 := by
  have positive : 0 < cfg.codeDbRatio := by linarith
  have extent := abs_mul_codeDbRatio_le ratioLower size
  have difference : |qSub cfg (c2i cfg c) cfg.chainDb - c * cfg.codeDbRatio| ≤ cfg.codeDbRatio / 2 ^ 30 := by
    rw [qSub_binary64 h]
    refine inBinary64_near (δ := cfg.codeDbRatio / 2 ^ 31) (size := 2 ^ 12 * cfg.codeDbRatio) ?_ ?_ ?_ ?_
    · rw [sub_sub, add_comm cfg.chainDb]
      exact c2i_binary64_near h ratioLower ratioUpper chain size
    all_goals linarith
  rw [qDiv_binary64 h _ positive.ne']
  refine inBinary64_near (δ := 1 / 2 ^ 30) (size := 2 ^ 11) ?_ ?_ (by norm_num) (by norm_num)
  · rw [div_sub' positive.ne', abs_div, abs_of_pos positive, div_le_iff₀ positive, mul_comm cfg.codeDbRatio c]
    linarith
  · linarith

end

/-- Settles O46: in either domain G.I2C undoes G.C2I up to the error of `round1`, and the clamp moves nothing away from
an applied code. -/
theorem gainRoundTrips : Obligations.GainRoundTrips := by
  have least {c : Rat} (lower : 50 ≤ c) : -4096 ≤ c := by linarith
  refine ⟨fun cfg h chainLower chainUpper ratioLower ratioUpper c lower upper => ?binary64, fun cfg h positive =>
    ⟨fun c lower upper => ⟨?rounds, fun tenth => ?returns, abs_sub_le_iff.1 ?near⟩,
      fun a1 r => c2s_s2c_exact_near h positive⟩⟩
  case binary64 =>
    have size : |c| ≤ 1241 := abs_le.2 ⟨by linarith, upper⟩
    have code := code_of_c2i_binary64_near h ratioLower ratioUpper (abs_le.2 ⟨chainLower, chainUpper⟩) size
    obtain ⟨any, decimal⟩ := round1_binary64_near h size code
    exact ⟨clamp_near any (least lower) upper, fun tenth => clamp_near (decimal tenth) (least lower) upper⟩
  case rounds => rw [i2c_c2i_exact h positive, round1_exact h]
  case returns => rw [i2c_c2i_exact h positive, round1_exact_of_tenth h tenth, clamp_of_mem (least lower) upper]
  case near =>
    rw [i2c_c2i_exact h positive]
    exact clamp_near (round1_exact_near h c) (least lower) upper

/-! ### The gain table (R226, R230) -/

theorem gainCells_eq_map_range' (cfg : Config) (ci cs bi bs : Rat) (i n : Nat) :
    gainCells cfg ci cs bi bs i n = (List.range' i n).map (gainCell cfg ci cs bi bs) := by
  induction n generalizing i with
  | zero => rfl
  | succ n ih => rw [gainCells, ih, List.range'_succ, List.map_cons]

theorem gtab_eq_map_range (cfg : Config) (n : Nat) (ci cs bi bs : Rat) :
    gtab cfg n ci cs bi bs = (List.range n).map (gainCell cfg ci cs bi bs) := by
  rw [gtab, gainCells_eq_map_range', List.range_eq_range']

theorem gtab_length (cfg : Config) (n : Nat) (ci cs bi bs : Rat) : (gtab cfg n ci cs bi bs).length = n := by
  rw [gtab_eq_map_range, List.length_map, List.length_range]

theorem gtab_getElem? (cfg : Config) {n i : Nat} (inside : i < n) (ci cs bi bs : Rat) :
    (gtab cfg n ci cs bi bs)[i]? = some (gainCell cfg ci cs bi bs i) := by
  rw [gtab_eq_map_range, List.getElem?_map, List.getElem?_range inside, Option.map_some]

/-- Settles O47: the table by its cells, each cell by the formulas of its two codes. -/
theorem gainTable : Obligations.GainTable := by
  refine fun s n ci cs bi bs h => ⟨_, exec_gTable n ci cs bi bs s, gtab_length .., fun i inside => ?_⟩
  rw [gtab_getElem? s.cfg inside, gainCell, selectDb, c2i_exact h, c2i_exact h, effectiveCode_exact h,
    effectiveCode_exact h]

theorem selectDb_eq_min (blindDb lawDb : Rat) : selectDb blindDb lawDb = min blindDb lawDb := (min_def ..).symm

theorem c2i_exact_mono {cfg : Config} (h : cfg.num = .exact) (positive : 0 < cfg.codeDbRatio) : Monotone (c2i cfg) := by
  intro x y le
  rw [c2i_exact h, c2i_exact h]
  gcongr

/-- The value of any code the table uses lies between those of the two ends of the applied range. -/
theorem c2i_effectiveCode_mem {cfg : Config} (h : cfg.num = .exact) (positive : 0 < cfg.codeDbRatio) (c slope : Rat)
    (i : Nat) :
    c2i cfg 50 ≤ c2i cfg (effectiveCode cfg c slope i) ∧ c2i cfg (effectiveCode cfg c slope i) ≤ c2i cfg 1241 :=
  have bounds : (50 : Rat) ≤ 1241 := by norm_num
  ⟨c2i_exact_mono h positive (le_clamp bounds _), c2i_exact_mono h positive (clamp_le bounds _)⟩

/-- Settles O48: the smaller of two values in the range of codes 50 to 1241 is in that range, and at most the blind
one; a monotone reading keeps all three inequalities. -/
theorem gainTableBounded : Obligations.GainTableBounded := by
  intro K _ cfg pow n ci cs bi bs h positive mono i g entry
  have inside : i < n := by
    have := (List.getElem?_eq_some_iff.1 entry).1
    rwa [gtab_length] at this
  rw [gtab_getElem? cfg inside, Option.some.injEq, gainCell, selectDb_eq_min] at entry
  subst entry
  obtain ⟨blindLower, blindUpper⟩ := c2i_effectiveCode_mem h positive bi bs i
  have lawLower := (c2i_effectiveCode_mem h positive ci cs i).1
  rw [← effectiveCode_exact h]
  exact ⟨mono _ _ (min_le_left ..), mono _ _ (le_min blindLower lawLower),
    mono _ _ ((min_le_left ..).trans blindUpper)⟩

end Sys2Proof.Machine

/-! The configuration codec (44_config.md R241 to R262): each operation of the unit is its tests, in order, around one
write. The formulas are compared with the rules in the exact domain. The counts and the four booleans pass through no
arithmetic, so they come back in either domain. -/

namespace Sys2Proof.Machine

/-! ### Tests before a write -/

/-- An operation that begins with a test. -/
theorem runOp_of_ite {α : Type} {op f : Engine α} {p : Prop} [Decidable p] {s t : State}
    (tests : op s = if p then f s else .error () t) : runOp op s = if p then runOp f s else t := by
  rw [runOp, tests]
  split_ifs <;> rfl

/-- The same where a fault leaves more behind. -/
theorem runOp_onFault_of_ite {α : Type} {op f : Engine α} {p : Prop} [Decidable p] {s t : State}
    (tests : op s = if p then f s else .error () t) (g : State → State) :
    runOp (onFault op g) s = if p then runOp (onFault f g) s else g t := by
  rw [runOp, onFault, tests]
  split_ifs <;> rfl

theorem runOp_onFault_inspect_bind {α β : Type} (f : State → α) (op : α → Engine β) (g : State → State) (s : State) :
    runOp (onFault (inspect f >>= op) g) s = runOp (onFault (op (f s)) g) s := rfl

/-! ### A slot that has been loaded -/

section

variable {s t : State} {k : Nat} {h : HwConfig} (loaded : t.hc = s.hc.set k ⟨true, h⟩) (range : k < s.nSlots)

include loaded range

theorem State.slotRegs_of_loaded : t.slotRegs k = h := by
  rw [State.nSlots] at range
  rw [State.slotRegs, loaded, List.getElem?_set_self range]

theorem State.slotValid_of_loaded : t.slotValid k = true := by
  rw [State.nSlots] at range
  rw [State.slotValid, loaded, List.getElem?_set_self range]

theorem State.lt_nSlots_of_loaded : k < t.nSlots := by
  rwa [State.nSlots, loaded, List.length_set]

end

/-! ### CFG.FROMREGS and CFG.TOREGS (R256, R257, R259) -/

theorem HwConfig.ofRegs_toRegs (h : HwConfig) : HwConfig.ofRegs h.toRegs = some h := rfl

theorem HwConfig.toRegs_injective : Function.Injective HwConfig.toRegs := fun h h' same =>
  Option.some.inj (by rw [← ofRegs_toRegs h, same, ofRegs_toRegs h'])

theorem HwConfig.ofRegs_eq_none {l : List Word} (other : l.length ≠ 17) : HwConfig.ofRegs l = none := by
  unfold HwConfig.ofRegs
  split
  · exact absurd rfl other
  · rfl

theorem HwConfig.exists_toRegs_eq {l : List Word} (len : l.length = 17) : ∃ h : HwConfig, h.toRegs = l :=
  match l, len with
  | [w0, w1, w2, w3, w4, w5, w6, w7, w8, w9, w10, w11, w12, w13, w14, w15, w16], _ =>
    ⟨⟨w0, w1, w2, w3, w4, w5, w6, w7, w8, w9, w10, w11, w12, w13, w14, w15, w16⟩, rfl⟩

theorem exec_cfgFromRegs_toRegs {s : State} {k : Nat} (range : k < s.nSlots) (h : HwConfig) :
    exec (.cfgFromRegs k h.toRegs) s = .next { s with hc := s.hc.set k ⟨true, h⟩, status := 0 } := by
  rw [exec_cfgFromRegs, runOp_ok (opCfgFromRegs_toRegs range h)]

theorem exec_cfgFromRegs_cfgLength {s : State} {k : Nat} {l : List Word} (range : k < s.nSlots)
    (other : l.length ≠ 17) : exec (.cfgFromRegs k l) s = .next (s.raise .cfgLength l.length 0) := by
  rw [exec_cfgFromRegs, opCfgFromRegs, runOp_of_ite (checkSlot_bind ..), if_pos range, HwConfig.ofRegs_eq_none other]
  rfl

theorem exec_cfgFromRegs_badSlot {s : State} {k : Nat} (past : s.nSlots ≤ k) (l : List Word) :
    exec (.cfgFromRegs k l) s = .next (s.raise .badSlot k 0) := by
  rw [exec_cfgFromRegs, opCfgFromRegs, runOp_of_ite (checkSlot_bind ..), if_neg past.not_gt]

theorem exec_cfgToRegs (k : Nat) (s : State) :
    exec (.cfgToRegs k) s = .next (
      if k < s.nSlots then
        if s.slotValid k = true then { s with rl := (s.slotRegs k).toRegs, status := 0 }
        else s.raise .hcNotLoaded k 0
      else s.raise .badSlot k 0) := by
  refine congrArg Host.Outcome.next (?_ : runOp (opCfgToRegs k) s = _)
  rw [runOp, opCfgToRegs_apply]
  split_ifs <;> rfl

/-- R259: the register-list pair. -/
theorem execAll_fromRegs_toRegs {s : State} {k : Nat} (range : k < s.nSlots) (h : HwConfig) :
    execAll [.cfgFromRegs k h.toRegs, .cfgToRegs k] s =
      .next { s with hc := s.hc.set k ⟨true, h⟩, rl := h.toRegs, status := 0 } := by
  have loaded : ({ s with hc := s.hc.set k ⟨true, h⟩, status := 0 } : State).hc = s.hc.set k ⟨true, h⟩ := rfl
  simp only [execAll, exec_cfgFromRegs_toRegs range, exec_cfgToRegs]
  rw [if_pos (State.lt_nSlots_of_loaded loaded range), if_pos (State.slotValid_of_loaded loaded range),
    State.slotRegs_of_loaded loaded range]

/-- Settles O51: every list of 17 patterns is the register list of some record, and CFG.TOREGS reads the slot that
CFG.FROMREGS loaded. -/
theorem registerLists : Obligations.RegisterLists := by
  refine fun s k => ⟨fun h range => exec_cfgFromRegs_toRegs range h,
    fun l range other => exec_cfgFromRegs_cfgLength range other, fun l past => exec_cfgFromRegs_badSlot past l,
    fun range valid => ?stores, fun range invalid => ?unloaded, fun past => ?badSlot, fun l range len => ?returns⟩
  case stores => rw [exec_cfgToRegs, if_pos range, if_pos valid]
  case unloaded => rw [exec_cfgToRegs, if_pos range, if_neg (ne_true_of_eq_false invalid)]
  case badSlot => rw [exec_cfgToRegs, if_neg past.not_gt]
  case returns =>
    obtain ⟨h, rfl⟩ := HwConfig.exists_toRegs_eq len
    exact ⟨_, execAll_fromRegs_toRegs range h, rfl, rfl⟩

/-! ### CFG.FROMUSER (R242 to R255) -/

theorem exec_cfgFromUser (k : Nat) (A : AcousticConfig) (c : Rat) (blind : Option BlindLimits) (s : State) :
    exec (.cfgFromUser k A c blind) s = .next (
      if k < s.nSlots then
        if ¬(A.f0 = 0 ∨ A.prf = 0 ∨ c = 0) then
          if divF0 s.cfg A.f0 + 1 ≠ 0 then
            { s with hc := s.hc.set k ⟨true, fromUser s.cfg (divF0 s.cfg A.f0) A c blind⟩, status := 0 }
          else s.raise .divZero 0 0
        else s.raise .divZero 0 0
      else s.raise .badSlot k 0) := by
  refine congrArg Host.Outcome.next (?_ : runOp (opCfgFromUser k A c blind) s = _)
  rw [opCfgFromUser, runOp_of_ite (checkSlot_bind ..), runOp_inspect_bind, runOp_of_ite (require_bind ..),
    runOp_of_ite (require_bind ..)]
  rfl

/-- CFG.FROMUSER ends with STATUS 0 only behind all its tests: a raise leaves its code. -/
theorem exec_cfgFromUser_succeeds {s t : State} {k : Nat} {A : AcousticConfig} {c : Rat} {blind : Option BlindLimits}
    (run : exec (.cfgFromUser k A c blind) s = .next t) (normal : t.status = 0) :
    k < s.nSlots ∧ t.hc = s.hc.set k ⟨true, fromUser s.cfg (divF0 s.cfg A.f0) A c blind⟩ := by
  rw [exec_cfgFromUser] at run
  obtain rfl := Host.Outcome.next.inj run
  split_ifs at normal ⊢ with range divisors divider
  · exact absurd normal (Cause.status_ne_zero _)
  · exact ⟨range, rfl⟩
  · exact absurd normal (Cause.status_ne_zero _)
  · exact absurd normal (Cause.status_ne_zero _)

section

variable {cfg : Config} (h : cfg.num = .exact)

include h

theorem divF0_exact (f0 : Rat) : divF0 cfg f0 = castS16 cfg (cfg.fSys / f0 - 1) := by
  rw [divF0, qSub_exact h, qDiv_exact h]

theorem effectiveF0_exact (div : Int) : effectiveF0 cfg div = cfg.fSys / ((div + 1 : Int) : Rat) := qDiv_exact h ..

theorem prfDivisor_exact (f0e prf : Rat) : prfDivisor cfg f0e prf = castS16 cfg (f0e / prf) := by
  rw [prfDivisor, qDiv_exact h]

theorem emissionCount_exact (f0e rEm c : Rat) :
    emissionCount cfg f0e rEm c = if rEm = 0 then 0 else max 1 (castS16 cfg (2 * f0e * rEm / c)) := by
  rw [emissionCount, qDiv_exact h, qMul_exact h, qMul_exact h]

theorem codeRange_exact (c f0e : Rat) (n : Int) : codeRange cfg c f0e n = c / (2 * f0e) * n := by
  rw [codeRange, qMul_exact h, qDiv_exact h, qMul_exact h]

theorem rangeCode_exact (c f0e r : Rat) : rangeCode cfg c f0e r = 2 * f0e / c * r := by
  rw [rangeCode, qMul_exact h, qDiv_exact h, qMul_exact h]

theorem firstVolumeCode_exact (c f0e rVol1 rEmE : Rat) :
    firstVolumeCode cfg c f0e rVol1 rEmE = castU16 cfg (2 * f0e / c * (rVol1 - rEmE / 2)) := by
  rw [firstVolumeCode, rangeCode_exact h, qSub_exact h, qDiv_exact h]

theorem settlingFloor_exact (f0e : Rat) : settlingFloor cfg f0e = (75 / 100000000 * f0e + 1).ceil := by
  have literal : settleK = 75 / 100000000 := by norm_num [settleK]
  rw [settlingFloor, qAdd_exact h, qMul_exact h, literal]

theorem spacingCode_exact (c f0e rDvol : Rat) :
    spacingCode cfg c f0e rDvol =
      castS16 cfg ((max (castS16 cfg (2 * f0e / c * rDvol)) (75 / 100000000 * f0e + 1).ceil : Int) : Rat) := by
  rw [spacingCode, rangeCode_exact h, settlingFloor_exact h]

theorem phaseCode_exact (vMin : Rat) (cprf : Int) (c : Rat) :
    phaseCode cfg vMin cprf c = castS16 cfg (vMin * cprf * 65535 / c) := by
  rw [phaseCode, qDiv_exact h, qMul_exact h, qMul_exact h]
  rfl

end

theorem encodeMode_eq_ofNat (b p e a : Bool) :
    encodeMode b p e a = BitVec.ofNat 16 (3 * b.toNat + 4 * p.toNat + 256 * e.toNat + 512 * a.toNat) := by
  rw [← (modeWord.2 b p e a).1, BitVec.ofNat_toNat, BitVec.setWidth_eq]

/-- Settles O49: behind its tests CFG.FROMUSER loads the words of `fromUser`, each by its formula. -/
theorem fromUserResult : Obligations.FromUserResult := by
  intro s k A c blind h range f0 prf speed divider
  have divisors : ¬(A.f0 = 0 ∨ A.prf = 0 ∨ c = 0) := not_or.2 ⟨f0, not_or.2 ⟨prf, speed⟩⟩
  rw [exec_cfgFromUser, if_pos range, if_pos divisors, divF0_exact h, if_pos divider]
  simp only [fromUser, effectiveF0_exact h, prfDivisor_exact h, emissionCount_exact h, codeRange_exact h,
    firstVolumeCode_exact h, spacingCode_exact h, phaseCode_exact h, encodeMode_eq_ofNat]
  cases blind <;> rfl

/-- Settles O50: the tests of CFG.FROMUSER one after the other. -/
theorem fromUserFaults : Obligations.FromUserFaults := by
  refine fun s k A c blind => ⟨fun past => ?badSlot, fun range zero => ?divisor,
    fun h range f0 prf speed zero => ?divider⟩
  case badSlot => rw [exec_cfgFromUser, if_neg past.not_gt]
  case divisor => rw [exec_cfgFromUser, if_pos range, if_neg (not_not.2 zero)]
  case divider =>
    have divisors : ¬(A.f0 = 0 ∨ A.prf = 0 ∨ c = 0) := not_or.2 ⟨f0, not_or.2 ⟨prf, speed⟩⟩
    rw [exec_cfgFromUser, if_pos range, if_pos divisors, divF0_exact h, if_neg (not_not.2 zero)]

/-! ### CFG.TOUSER (R258) -/

theorem exec_cfgToUser (k : Nat) (c : Rat) (s : State) :
    exec (.cfgToUser k c) s = .next (
      if k < s.nSlots then
        if s.slotValid k = true then
          if ¬toUserDivZero (s.slotRegs k) c then { s with ucr := toUser s.cfg (s.slotRegs k) c, status := 0 }
          else (s.raise .divZero 0 0).toUserFailed
        else (s.raise .hcNotLoaded k 0).toUserFailed
      else (s.raise .badSlot k 0).toUserFailed) := by
  refine congrArg Host.Outcome.next (?_ : runOp (opCfgToUser k c) s = _)
  rw [opCfgToUser, runOp_onFault_of_ite (checkSlot_bind ..), runOp_onFault_of_ite (checkLoaded_bind ..),
    runOp_onFault_inspect_bind, runOp_onFault_of_ite (require_bind ..)]
  rfl

/-- CFG.TOUSER ends with STATUS 0 only behind all its tests. -/
theorem exec_cfgToUser_succeeds {s t : State} {k : Nat} {c : Rat} (run : exec (.cfgToUser k c) s = .next t)
    (normal : t.status = 0) : t.ucr = toUser s.cfg (s.slotRegs k) c := by
  rw [exec_cfgToUser] at run
  obtain rfl := Host.Outcome.next.inj run
  split_ifs at normal ⊢ with range valid divisors
  · exact absurd normal (Cause.status_ne_zero _)
  · rfl
  · exact absurd normal (Cause.status_ne_zero _)
  · exact absurd normal (Cause.status_ne_zero _)

/-- Settles O52: behind its tests CFG.TOUSER writes `toUser`, each field by its formula. -/
theorem toUserResult : Obligations.ToUserResult := by
  refine fun s k c => ⟨fun range valid divisors h => ?record, fun past => ?badSlot, fun range invalid => ?unloaded,
    fun range valid zero => ?divisor⟩
  case record =>
    rw [exec_cfgToUser, if_pos range, if_pos valid, if_pos divisors]
    simp only [toUser, effectiveF0_exact h, codeRange_exact h, c2i_exact h, c2s_exact h, qAdd_exact h, qDiv_exact h,
      qMul_exact h]
    rfl
  case badSlot => rw [exec_cfgToUser, if_neg past.not_gt]
  case unloaded => rw [exec_cfgToUser, if_pos range, if_neg (ne_true_of_eq_false invalid)]
  case divisor => rw [exec_cfgToUser, if_pos range, if_pos valid, if_neg (not_not.2 zero)]

/-! ### There and back (R245, R252) -/

theorem sRead_pat {n : Int} (lower : -32768 ≤ n) (upper : n ≤ 32767) : sRead (pat n) = n := by
  rw [sRead, pat, BitVec.toInt_ofInt]
  exact Int.bmod_eq_of_le (by omega) (by omega)

/-- A count that fits a signed word is stored as itself. -/
theorem sRead_pat_castS16 (cfg : Config) {n : Int} (lower : -32768 ≤ n) (upper : n ≤ 32767) :
    sRead (pat (castS16 cfg n)) = n := by
  have kept : castS16 cfg n = n := (clamp_rni_intCast cfg.roundTie (by decide) n).1 lower upper
  rw [kept, sRead_pat lower upper]

theorem burstMode_encodeMode (test : BurstTest) (b p e a : Bool) : burstMode test (encodeMode b p e a) = b := by
  obtain ⟨_, _, _, _, _, bit0, bit1, both, any⟩ := modeWord.2 b p e a
  cases test with
  | bit0 => exact bit0
  | bit1 => exact bit1
  | both => exact both
  | any => exact any

/-- Settles O53: CFG.TOUSER reads the slot CFG.FROMUSER loaded, where the counts are casts of integers and the mode
word is an encoded one. -/
theorem countsAndModesReturn : Obligations.CountsAndModesReturn := by
  intro s t u k A c c' blind stored storeNormal read readNormal
  obtain ⟨range, loaded⟩ := exec_cfgFromUser_succeeds stored storeNormal
  obtain ⟨_, _, phase, filter, auto, _⟩ := modeWord.2 A.burstMode A.phaseCoding A.staticEchoFilter A.gainAuto
  rw [exec_cfgToUser_succeeds read readNormal, State.slotRegs_of_loaded loaded range]
  exact ⟨sRead_pat_castS16 s.cfg, sRead_pat_castS16 s.cfg, sRead_pat_castS16 s.cfg, burstMode_encodeMode .., phase,
    filter, auto⟩

/-! ### CFG.BLOCKDUR and CFG.EQ (R261, R262) -/

theorem exec_cfgBlockDur (k : Nat) (s : State) :
    exec (.cfgBlockDur k) s = .next (
      if k < s.nSlots then
        if s.slotValid k = true then { s with bdur := blockDuration s.cfg (s.slotRegs k), status := 0 }
        else s.raise .hcNotLoaded k 0
      else s.raise .badSlot k 0) := by
  refine congrArg Host.Outcome.next (?_ : runOp (opCfgBlockDur k) s = _)
  rw [opCfgBlockDur, runOp_of_ite (checkSlot_bind ..), runOp_of_ite (checkLoaded_bind ..)]
  rfl

theorem blockDuration_exact {cfg : Config} (h : cfg.num = .exact) (w : HwConfig) :
    blockDuration cfg w =
      sRead w.nTir * sRead w.nAvg * ((sRead w.divF0 + 1 : Int) : Rat) * sRead w.cPrf / cfg.fSys := by
  rw [blockDuration, qDiv_exact h, qMul_exact h, qMul_exact h, qMul_exact h]

theorem exec_cfgEq (k j : Nat) (s : State) :
    exec (.cfgEq k j) s = .next (
      if k < s.nSlots then
        if j < s.nSlots then
          if s.slotValid k = true then
            if s.slotValid j = true then
              { s with eqf := (s.slotRegs k).toRegs == (s.slotRegs j).toRegs, status := 0 }
            else s.raise .hcNotLoaded j 0
          else s.raise .hcNotLoaded k 0
        else s.raise .badSlot j 0
      else s.raise .badSlot k 0) := by
  have allWords : ((s.slotRegs k).toRegs == (s.slotRegs j).toRegs) = decide (s.slotRegs k = s.slotRegs j) := by
    rw [beq_eq_decide, decide_eq_decide, HwConfig.toRegs_injective.eq_iff]
  refine congrArg Host.Outcome.next (?_ : runOp (opCfgEq k j) s = _)
  rw [opCfgEq, runOp_of_ite (checkSlot_bind ..), runOp_of_ite (checkSlot_bind ..),
    runOp_of_ite (checkLoaded_bind ..), runOp_of_ite (checkLoaded_bind ..), allWords]
  rfl

/-- Settles O54: the tests of the two queries one after the other, then one write. -/
theorem configQueries : Obligations.ConfigQueries := by
  refine fun s k j => ⟨fun range valid h => ?duration, fun past => ?durationBadSlot,
    fun range invalid => ?durationUnloaded, fun first second valid valid' => ?equal, fun past => ?firstBadSlot,
    fun first past => ?secondBadSlot, fun first second invalid => ?firstUnloaded,
    fun first second valid invalid => ?secondUnloaded⟩
  case duration => rw [exec_cfgBlockDur, if_pos range, if_pos valid, blockDuration_exact h]
  case durationBadSlot => rw [exec_cfgBlockDur, if_neg past.not_gt]
  case durationUnloaded => rw [exec_cfgBlockDur, if_pos range, if_neg (ne_true_of_eq_false invalid)]
  case equal => rw [exec_cfgEq, if_pos first, if_pos second, if_pos valid, if_pos valid']
  case firstBadSlot => rw [exec_cfgEq, if_neg past.not_gt]
  case secondBadSlot => rw [exec_cfgEq, if_pos first, if_neg past.not_gt]
  case firstUnloaded => rw [exec_cfgEq, if_pos first, if_pos second, if_neg (ne_true_of_eq_false invalid)]
  case secondUnloaded =>
    rw [exec_cfgEq, if_pos first, if_pos second, if_pos valid, if_neg (ne_true_of_eq_false invalid)]

end Sys2Proof.Machine

/-! The timestamp codec (45_timestamp.md R281 to R285). The OR of TS.DEC is a sum where the second word has its sign bit
clear, and the second word itself where it is set; so on canonical words it undoes the division by 32768 of TS.ENC. -/

namespace Sys2Proof.Machine

/-! ### The OR of two words (R283, R284) -/

theorem word_toInt_bounds (w : Word) : -32768 ≤ w.toInt ∧ w.toInt ≤ 32767 :=
  ⟨BitVec.le_toInt w, Int.le_of_lt_add_one BitVec.toInt_lt⟩

theorem toInt_signExtend_word (w : Word) : (w.signExtend 32).toInt = w.toInt :=
  BitVec.toInt_signExtend_of_le (by decide)

/-- A signed word moved up by 15 bits still fits 32 bits. -/
theorem toInt_signExtend_word_shiftLeft (w : Word) : (w.signExtend 32 <<< 15).toInt = w.toInt * 32768 := by
  obtain ⟨lower, upper⟩ := word_toInt_bounds w
  have factor : (BitVec.twoPow 32 15).toInt = 32768 := by decide
  rw [BitVec.shiftLeft_eq_mul_twoPow, BitVec.toInt_mul, toInt_signExtend_word, factor]
  exact Int.bmod_eq_of_le (by omega) (by omega)

theorem getElem_signExtend_word_of_le (w : Word) {i : Nat} (high : 15 ≤ i) (h : i < 32) :
    (w.signExtend 32)[i] = w.msb := by
  rw [BitVec.getElem_signExtend]
  split_ifs with inWord
  · obtain rfl : i = 15 := by omega
    rw [BitVec.msb_eq_getLsbD_last, BitVec.getLsbD_eq_getElem]
  · rfl

theorem getElem_shiftLeft_of_lt (x : BitVec 32) {i : Nat} (low : i < 15) : (x <<< 15)[i] = false := by
  rw [BitVec.getElem_shiftLeft, decide_eq_true low, Bool.not_true, Bool.false_and]

/-- With the sign bit of the second word clear, the operands of the OR share no bit. -/
theorem tsSeconds_of_nonneg (w0 : Word) {w1 : Word} (nonneg : 0 ≤ w1.toInt) :
    tsSeconds w0 w1 = w0.toInt * 32768 + w1.toInt := by
  obtain ⟨lower, upper⟩ := word_toInt_bounds w0
  obtain ⟨-, upper'⟩ := word_toInt_bounds w1
  have sign : w1.msb = false := by rw [BitVec.msb_eq_toInt, decide_eq_false nonneg.not_gt]
  have disjoint : w0.signExtend 32 <<< 15 &&& w1.signExtend 32 = 0#32 := by
    ext i h
    rw [BitVec.getElem_and, BitVec.getElem_zero]
    obtain low | high := Nat.lt_or_ge i 15
    · rw [getElem_shiftLeft_of_lt _ low, Bool.false_and]
    · rw [getElem_signExtend_word_of_le w1 high, sign, Bool.and_false]
  rw [tsSeconds, ← BitVec.add_eq_or_of_and_eq_zero _ _ disjoint, BitVec.toInt_add, toInt_signExtend_word_shiftLeft,
    toInt_signExtend_word]
  exact Int.bmod_eq_of_le (by omega) (by omega)

/-- With the sign bit of the second word set, its extension covers the first word. -/
theorem tsSeconds_of_neg (w0 : Word) {w1 : Word} (neg : w1.toInt < 0) : tsSeconds w0 w1 = w1.toInt := by
  have sign : w1.msb = true := by rw [BitVec.msb_eq_toInt, decide_eq_true neg]
  have covered : w0.signExtend 32 <<< 15 ||| w1.signExtend 32 = w1.signExtend 32 := by
    ext i h
    rw [BitVec.getElem_or]
    obtain low | high := Nat.lt_or_ge i 15
    · rw [getElem_shiftLeft_of_lt _ low, Bool.false_or]
    · rw [getElem_signExtend_word_of_le w1 high, sign, Bool.or_true]
  rw [tsSeconds, covered, toInt_signExtend_word]

/-! ### The words of TS.ENC (R281) -/

theorem sRead_tsHigh {sec : Int} (span : secInSpan sec) : sRead (tsHigh sec) = sec / 32768 := by
  obtain ⟨lower, upper⟩ := span
  exact sRead_pat (by omega) (by omega)

theorem sRead_tsLow (sec : Int) : sRead (tsLow sec) = sec % 32768 := sRead_pat (by omega) (by omega)

theorem pat_sRead (w : Word) : pat (sRead w) = w := BitVec.ofInt_toInt

theorem tsSeconds_tsHigh_tsLow {sec : Int} (span : secInSpan sec) : tsSeconds (tsHigh sec) (tsLow sec) = sec := by
  have high : (tsHigh sec).toInt = sec / 32768 := sRead_tsHigh span
  have low : (tsLow sec).toInt = sec % 32768 := sRead_tsLow sec
  rw [tsSeconds_of_nonneg _ (by omega), high, low, Int.mul_comm, Int.mul_ediv_add_emod]

/-- Canonical words are the two digits of their seconds in base 32768. -/
theorem tsHigh_tsLow_tsSeconds (w0 : Word) {w1 : Word} (nonneg : 0 ≤ w1.toInt) :
    secInSpan (tsSeconds w0 w1) ∧ tsHigh (tsSeconds w0 w1) = w0 ∧ tsLow (tsSeconds w0 w1) = w1 := by
  obtain ⟨lower, upper⟩ := word_toInt_bounds w0
  obtain ⟨-, upper'⟩ := word_toInt_bounds w1
  have quotient : (w0.toInt * 32768 + w1.toInt) / 32768 = sRead w0 := by rw [sRead]; omega
  have remainder : (w0.toInt * 32768 + w1.toInt) % 32768 = sRead w1 := by rw [sRead]; omega
  rw [tsSeconds_of_nonneg w0 nonneg]
  refine ⟨⟨by omega, by omega⟩, ?_, ?_⟩
  · rw [tsHigh, quotient, pat_sRead]
  · rw [tsLow, remainder, pat_sRead]

/-! ### The instructions -/

theorem exec_tsDec (w0 w1 w2 : Word) (s : State) :
    exec (.tsDec w0 w1 w2) s = .next { s with tssec := tsSeconds w0 w1, tsms := sRead w2, status := 0 } := rfl

theorem exec_tsEnc (sec ms : Int) (s : State) :
    exec (.tsEnc sec ms) s = .next (
      if secInSpan sec then
        if msInSpan ms then { s with tsw0 := tsHigh sec, tsw1 := tsLow sec, tsw2 := pat ms, status := 0 }
        else s.raise .tsRange 1 0
      else s.raise .tsRange 0 0) := by
  refine congrArg Host.Outcome.next (?_ : runOp (opTsEnc sec ms) s = _)
  rw [opTsEnc, runOp_of_ite (require_bind ..), runOp_of_ite (require_bind ..)]
  rfl

/-- TS.ENC ends with STATUS 0 only behind both its tests. -/
theorem exec_tsEnc_succeeds {s t : State} {sec ms : Int} (run : exec (.tsEnc sec ms) s = .next t)
    (normal : t.status = 0) : msInSpan ms ∧ t.tsw1 = tsLow sec := by
  rw [exec_tsEnc] at run
  obtain rfl := Host.Outcome.next.inj run
  split_ifs at normal ⊢ with seconds milliseconds
  · exact ⟨milliseconds, rfl⟩
  · exact absurd normal (Cause.status_ne_zero _)
  · exact absurd normal (Cause.status_ne_zero _)

/-- Settles O56: two tests, then one write. -/
theorem timestampEncode : Obligations.TimestampEncode := by
  refine fun s sec ms => ⟨fun lower upper lower' upper' => ?words, fun outside => ?seconds,
    fun lower upper outside => ?milliseconds⟩
  case words => rw [exec_tsEnc, if_pos ⟨lower, upper⟩, if_pos ⟨lower', upper'⟩]; rfl
  case seconds => rw [exec_tsEnc, if_neg (by omega)]
  case milliseconds => rw [exec_tsEnc, if_pos ⟨lower, upper⟩, if_neg (by omega)]

/-- Settles O57: TS.DEC is one write, and the sign of the second word decides what its OR gives. -/
theorem timestampDecode : Obligations.TimestampDecode := by
  intro s w0 w1 w2
  rw [exec_tsDec]
  split_ifs with nonneg
  · rw [tsSeconds_of_nonneg w0 nonneg]; rfl
  · rw [tsSeconds_of_neg w0 (not_le.mp nonneg)]; rfl

/-- Settles O58: quotient and remainder give the seconds back, and a triple comes back where its second word is a
remainder and its third one counts milliseconds. -/
theorem timestampRoundTrip : Obligations.TimestampRoundTrip := by
  refine ⟨fun s t sec ms lower upper lower' upper' run => ?instant, fun s w0 w1 w2 => ⟨?canonical, ?triple⟩⟩
  case instant =>
    rw [exec_tsEnc, if_pos ⟨lower, upper⟩, if_pos ⟨lower', upper'⟩] at run
    obtain rfl := Host.Outcome.next.inj run
    exact ⟨_, exec_tsDec .., tsSeconds_tsHigh_tsLow ⟨lower, upper⟩, sRead_pat (by omega) (by omega)⟩
  case canonical =>
    rintro ⟨t, u, decoded, encoded, normal, -, low, -⟩
    rw [exec_tsDec] at decoded
    obtain rfl := Host.Outcome.next.inj decoded
    obtain ⟨milliseconds, low'⟩ := exec_tsEnc_succeeds encoded normal
    have remainder : w1.toInt = tsSeconds w0 w1 % 32768 := by rw [← sRead_tsLow, ← low', low, sRead]
    exact ⟨remainder ▸ Int.emod_nonneg _ (by decide), milliseconds⟩
  case triple =>
    rintro ⟨nonneg, milliseconds⟩
    obtain ⟨span, high, low⟩ := tsHigh_tsLow_tsSeconds w0 nonneg
    refine ⟨_, _, exec_tsDec .., exec_tsEnc .., ?_⟩
    rw [if_pos span, if_pos (by exact milliseconds)]
    exact ⟨rfl, high, low, pat_sRead w2⟩

end Sys2Proof.Machine

/-! The profile decoder (46_profile.md R291 to R300): PROF.DEC is its tests, in order, around one write. What it writes
reads the words of the block in place, cell `i` the four from word `11 + 4·i` on, so each entry of the record is a
formula of words of known number. -/

namespace Sys2Proof.Machine

/-! ### The words of a block (R292) -/

theorem bytesToWords_getD {bs : List Byte} (even : 2 ∣ bs.length) (j : Nat) :
    (bytesToWords bs).getD j 0 = wordAt bs (2 * j) := by
  induction bs using bytesToWords.induct generalizing j with
  | case1 hi lo bs ih =>
    cases j with
    | zero => rfl
    | succ j => exact ih (by simpa using even) j
  | case2 bs short =>
    match bs, even with
    | [], _ => simp [bytesToWords, wordAt, byteAt, ofOctets]
    | [_], odd => exact absurd odd (by simp)
    | hi :: lo :: bs, _ => exact absurd rfl (short hi lo bs)

theorem bytesToWords_length_of_double {bs : List Byte} {n : Nat} (size : bs.length = 2 * n) :
    (bytesToWords bs).length = n := by
  rw [bytesToWords_length, size, Nat.mul_div_cancel_left n two_pos]

theorem blockWord_bytesToWords {bs : List Byte} (even : 2 ∣ bs.length) (j : Nat) :
    blockWord (bytesToWords bs) j = sRead (wordAt bs (2 * j)) := congrArg sRead (bytesToWords_getD even j)

/-- The words behind the head of a block. -/
theorem blockWord_drop (ws : List Word) (m j : Nat) : blockWord (ws.drop m) j = blockWord ws (m + j) := by
  simp only [blockWord, List.getD_eq_getElem?_getD, List.getElem?_drop]

/-! ### The entries of the record -/

/-- One cell for each gain, from four words each (R291, R298). -/
theorem profileCells_eq_mapIdx (cfg : Config) (fv : Rat) (navg : Int) {gs : List Gain} {ws : List Word}
    (size : ws.length = 4 * gs.length) :
    profileCells cfg fv navg gs ws = gs.mapIdx fun i g => profileCell cfg fv navg g (blockWord ws (4 * i))
      (blockWord ws (4 * i + 1)) (blockWord ws (4 * i + 2)) (blockWord ws (4 * i + 3)) := by
  induction gs generalizing ws with
  | nil => rfl
  | cons g gs ih =>
    match ws, size with
    | rv :: rs :: ra :: rn :: ws, size =>
      rw [profileCells, ih (by simpa [Nat.mul_succ] using size), List.mapIdx_cons]
      rfl

theorem profileGains_eq_gtab (cfg : Config) {h : HwConfig} {n : Nat} (count : sRead h.nVol = n) (ws : List Word) :
    profileGains cfg h ws =
      gtab cfg n (blockWord ws 7) (blockWord ws 8) (sRead h.blindCa0) (sRead h.blindCa1) := by
  rw [profileGains, count, Int.toNat_natCast]
  rfl

section

variable (cfg : Config) {h : HwConfig} {n : Nat} {ws : List Word} (count : sRead h.nVol = n)
  (size : ws.length = 11 + 4 * n)

include count size

theorem profileRecord_cells :
    (profileRecord cfg h ws).cells = (profileGains cfg h ws).mapIdx fun i g =>
      profileCell cfg (velocityFactor cfg (blockWord ws 6) (sRead h.cPrf)) (sRead h.nAvg) g (blockWord ws (11 + 4 * i))
        (blockWord ws (12 + 4 * i)) (blockWord ws (13 + 4 * i)) (blockWord ws (14 + 4 * i)) := by
  have gains : (profileGains cfg h ws).length = n := by rw [profileGains_eq_gtab cfg count, gtab_length]
  have words : (ws.drop profileHeadWords).length = 4 * (profileGains cfg h ws).length := by
    rw [List.length_drop, size, gains, profileHeadWords, Nat.add_sub_cancel_left]
  rw [profileRecord, profileCells_eq_mapIdx _ _ _ words]
  simp only [blockWord_drop, profileHeadWords, ← Nat.add_assoc, Nat.add_right_comm 11]
  rfl

theorem profileRecord_cells_length : (profileRecord cfg h ws).cells.length = n := by
  rw [profileRecord_cells cfg count size, List.length_mapIdx, profileGains_eq_gtab cfg count, gtab_length]

end

theorem tsSeconds_eq_ite (w0 w1 : Word) :
    tsSeconds w0 w1 = if 0 ≤ sRead w1 then sRead w0 * 32768 + sRead w1 else sRead w1 := by
  split_ifs with nonneg
  · exact tsSeconds_of_nonneg w0 nonneg
  · exact tsSeconds_of_neg w0 (not_le.mp nonneg)

/-- The timestamp is that of TS.DEC (R295). -/
theorem profileRecord_sec (cfg : Config) (h : HwConfig) (ws : List Word) :
    (profileRecord cfg h ws).sec =
      if 0 ≤ blockWord ws 1 then blockWord ws 0 * 32768 + blockWord ws 1 else blockWord ws 1 :=
  tsSeconds_eq_ite ..

/-! ### The formulas of a cell -/

section

variable {cfg : Config} (h : cfg.num = .exact)

include h

theorem velocityFactor_exact (soundSpeed cprf : Int) :
    velocityFactor cfg soundSpeed cprf = soundSpeed / (cprf * 65535) := by
  rw [velocityFactor, qDiv_exact h, qMul_exact h, velScale]

theorem amplitudeFactor_exact : amplitudeFactor cfg = 2 * cfg.vref / 4096 := by
  rw [amplitudeFactor, qDiv_exact h, qMul_exact h, ampScale]

theorem profileCell_exact (fv : Rat) (navg : Int) (g : Gain) (rv rs ra rn : Int) :
    profileCell cfg fv navg g rv rs ra rn =
      { vel := rv * fv
        std := ((|rs| : Int) : Rat) * fv
        amp := ⟨((|ra| : Int) : Rat) * (2 * cfg.vref / 4096), navg, g⟩
        snr := rn / 10
        wrap := decide (rs < 0)
        sat := decide (ra < 0) } := by
  simp only [profileCell, qMul_exact h, qDiv_exact h, amplitudeFactor_exact h, snrDiv, signFlag]

end

/-- In either number domain the divisor, an integer of 31 bits, is not rounded to 0 (R300). -/
theorem velocityFactor_zero (cfg : Config) {w : Word} (divider : sRead w ≠ 0) : velocityFactor cfg 0 (sRead w) = 0 := by
  have product : (sRead w : Rat) * velScale = ((sRead w * 65535 : Int) : Rat) := by rw [velScale]; norm_cast
  have divisor : qMul cfg (sRead w) velScale = ((sRead w * 65535 : Int) : Rat) := by
    cases domain : cfg.num with
    | exact => rw [qMul_exact domain, product]
    | binary64 =>
      have bounds : -32768 ≤ sRead w ∧ sRead w ≤ 32767 := word_toInt_bounds w
      rw [qMul_binary64 domain, product, inBinary64_int (by omega)]
  have nonzero : qMul cfg (sRead w) velScale ≠ 0 := by
    rw [divisor]
    exact_mod_cast mul_ne_zero divider (by decide)
  rw [velocityFactor, Int.cast_zero, zero_qDiv cfg nonzero]

/-! ### The instruction -/

theorem exec_profDec_eq_ite (pb : List Byte) (k : Nat) (s : State) :
    exec (.profDec pb k) s = .next (
      if k < s.nSlots then
        if s.slotValid k = true then
          if 0 ≤ sRead (s.slotRegs k).nVol ∧ (pb.length : Int) = profileBytes (sRead (s.slotRegs k).nVol) then
            if sRead (s.slotRegs k).cPrf ≠ 0 ∧ 0 < sRead (s.slotRegs k).nAvg then
              { s with
                pr := profileRecord s.cfg (s.slotRegs k) (bytesToWords pb), prv := true
                gt := profileGains s.cfg (s.slotRegs k) (bytesToWords pb), status := 0 }
            else s.raise .divZero 0 0
          else s.raise .profileSize (profileBytes (sRead (s.slotRegs k).nVol)) pb.length
        else s.raise .hcNotLoaded k 0
      else s.raise .badSlot k 0) := by
  rw [exec_profDec, opProfDec, runOp_of_ite (checkSlot_bind ..), runOp_of_ite (checkLoaded_bind ..),
    runOp_inspect_bind, runOp_of_ite (require_bind ..), runOp_of_ite (require_bind ..)]
  rfl

/-- Settles O60: each cause is the branch of the first test that fails. -/
theorem profileFaults : Obligations.ProfileFaults := by
  refine fun s pb k => ⟨fun past => ?badSlot, fun range invalid => ?unloaded, fun range valid wrong => ?size,
    fun range valid nonneg size zero => ?divisor⟩
  case badSlot => rw [exec_profDec_eq_ite, if_neg past.not_gt]
  case unloaded => rw [exec_profDec_eq_ite, if_pos range, if_neg (ne_true_of_eq_false invalid)]
  case size =>
    have misfit : ¬(0 ≤ sRead (s.slotRegs k).nVol ∧ (pb.length : Int) = profileBytes (sRead (s.slotRegs k).nVol)) :=
      fun ⟨nonneg, size⟩ => wrong.elim nonneg.not_gt (absurd size)
    rw [exec_profDec_eq_ite, if_pos range, if_pos valid, if_neg misfit]
    rfl
  case divisor =>
    have untaken : ¬(sRead (s.slotRegs k).cPrf ≠ 0 ∧ 0 < sRead (s.slotRegs k).nAvg) :=
      fun ⟨cPrf, nAvg⟩ => zero.elim cPrf nAvg.not_ge
    rw [exec_profDec_eq_ite, if_pos range, if_pos valid, if_pos ⟨nonneg, size⟩, if_neg untaken]

/-- PROF.DEC behind all its tests. -/
theorem exec_profDec_decodes {s : State} {pb : List Byte} {k n : Nat} (range : k < s.nSlots)
    (valid : s.slotValid k = true) (count : sRead (s.slotRegs k).nVol = n) (size : pb.length = 2 * (11 + 4 * n))
    (cPrf : sRead (s.slotRegs k).cPrf ≠ 0) (nAvg : 0 < sRead (s.slotRegs k).nAvg) :
    exec (.profDec pb k) s = .next { s with
      pr := profileRecord s.cfg (s.slotRegs k) (bytesToWords pb), prv := true
      gt := profileGains s.cfg (s.slotRegs k) (bytesToWords pb), status := 0 } := by
  have fits : 0 ≤ sRead (s.slotRegs k).nVol ∧ (pb.length : Int) = profileBytes (sRead (s.slotRegs k).nVol) := by
    rw [count, size, profileBytes, profileHeadWords]
    omega
  rw [exec_profDec_eq_ite, if_pos range, if_pos valid, if_pos fits, if_pos ⟨cPrf, nAvg⟩]

/-- Settles O59: cell `i` is the formula of its four words and of gain `i`. A raw amplitude of 0 and a velocity factor
of 0 are zero factors, which no number domain rounds. -/
theorem profileDecode : Obligations.ProfileDecode := by
  constructor
  · intro s pb k n range valid h W count size cPrf nAvg
    have word (j : Nat) : blockWord (bytesToWords pb) j = W j := blockWord_bytesToWords ⟨_, size⟩ j
    have words := bytesToWords_length_of_double size
    refine ⟨_, exec_profDec_decodes range valid count size cPrf nAvg, rfl, profileRecord_cells_length _ count words,
      fun i c entry => ?_⟩
    rw [profileRecord_cells _ count words, List.getElem?_mapIdx, Option.map_eq_some_iff] at entry
    obtain ⟨g, -, rfl⟩ := entry
    simp only [word, profileCell]
    refine ⟨fun amplitude => ?_, fun soundSpeed => ?_⟩
    · rw [amplitude]
      simp [signFlag]
    · rw [soundSpeed, velocityFactor_zero s.cfg cPrf]
      exact ⟨qMul_zero .., qMul_zero ..⟩
  · intro s pb k n exact range valid h W count size cPrf nAvg fv G
    have word (j : Nat) : blockWord (bytesToWords pb) j = W j := blockWord_bytesToWords ⟨_, size⟩ j
    have words := bytesToWords_length_of_double size
    have gains : profileGains s.cfg h (bytesToWords pb) = G := by rw [profileGains_eq_gtab _ count, word, word]
    have run := exec_profDec_decodes range valid count size cPrf nAvg
    rw [gains] at run
    refine ⟨_, run, ?_, word 2, ?_, profileRecord_cells_length _ count words, fun i inside => ?_⟩
    · rw [profileRecord_sec, word, word]
    · simp only [profileRecord, profileHeader, word]
    · refine ⟨_, gtab_getElem? s.cfg inside .., ?_⟩
      rw [profileRecord_cells _ count words, List.getElem?_mapIdx, gains, gtab_getElem? s.cfg inside, Option.map_some,
        profileCell_exact exact, velocityFactor_exact exact]
      simp only [word]
      rfl

end Sys2Proof.Machine

/-! The reset event (70_reset_and_hazards.md R340, R341) and the codes that a fault entry writes (60_exceptions.md R311,
R312). -/

namespace Sys2Proof.Machine

/-! ### The codes of a cause -/

theorem ofNat_shiftLeft (w n i : Nat) : BitVec.ofNat w (n <<< i) = BitVec.ofNat w n <<< i := by
  apply BitVec.eq_of_toNat_eq
  simp [Nat.shiftLeft_eq]

theorem Cause.number_lt (c : Cause) : c.number < 2 ^ 5 := by cases c <;> decide

/-- `STATUS = kind << 5 | cause`: the model's sum is this disjunction, as the number of a cause fits under the kind. -/
theorem Cause.status_eq_or (c : Cause) :
    c.status = (BitVec.ofNat 8 c.kind.number <<< 5) ||| BitVec.ofNat 8 c.number := by
  have fields : c.kind.number * 2 ^ 5 + c.number = c.kind.number <<< 5 ||| c.number := by
    rw [← Nat.shiftLeft_eq, Nat.shiftLeft_add_eq_or_of_lt c.number_lt]
  calc
    c.status = BitVec.ofNat 8 (c.kind.number <<< 5 ||| c.number) := congrArg (BitVec.ofNat 8) fields
    _ = BitVec.ofNat 8 (c.kind.number <<< 5) ||| BitVec.ofNat 8 c.number := BitVec.ofNat_or
    _ = (BitVec.ofNat 8 c.kind.number <<< 5) ||| BitVec.ofNat 8 c.number := by rw [ofNat_shiftLeft]

theorem Kind.stickyBit_eq_two_pow (k : Kind) : k.stickyBit = BitVec.ofNat 4 (2 ^ (k.number - 1)) := by
  rw [← Nat.one_shiftLeft, ofNat_shiftLeft, Kind.stickyBit]

/-- Settles O3: the two spellings of the codes agree, and the table of R312 is read off `Cause.status`. -/
theorem faultEntry : Obligations.FaultEntry := by
  refine ⟨fun s c i0 i1 => ?record, rfl, rfl, rfl, rfl⟩
  case record => rw [← c.status_eq_or, ← c.kind.stickyBit_eq_two_pow, State.raise]

/-! ### The reset event -/

theorem step_of_reset {s : State} {rest : List Event} (inbox : s.inbox = .reset :: rest) :
    step s = .next { s with inbox := rest }.afterReset := by
  rw [step, inbox]

/-- The slots stay as many as they were. -/
theorem State.afterReset_nSlots (s : State) : s.afterReset.nSlots = s.nSlots := List.length_replicate

/-- No slot is loaded after the reset event. -/
theorem State.afterReset_valid {s : State} {sl : Slot} (mem : sl ∈ s.afterReset.hc) : sl.valid = false := by
  rw [List.eq_of_mem_replicate mem]

/-- Settles O2: the step is `State.afterReset`; the slots are as many as before and unloaded, and every other register
is a value of the reset table or is kept by the record update. -/
theorem resetEvent : Obligations.ResetEvent := by
  intro s rest inbox
  refine ⟨_, step_of_reset inbox, rfl, State.afterReset_nSlots _, fun _ => State.afterReset_valid, ?registers⟩
  case registers => and_intros <;> rfl

end Sys2Proof.Machine
